-- ==== Sys2Proof/Word.lean ====
section
/-! DEFINITION. The word types of AQM-LED, the pixel and the cell that holds a register (rules R7, R21, R25, R41, R100). -/

namespace Sys2Proof

/-- One byte: a colour channel, an index, a pin number, a frame byte. -/
abbrev Byte := BitVec 8

/-- A word address of the program space (rule R26): 16 bits. -/
abbrev PcWord := BitVec 16

/-- One operation word `w[39:0]` (rule R100). -/
abbrev OpWord := BitVec 40

/-- One pixel: three unsigned 8-bit channels (rule R21), written `(r,g,b)` in operand order (rule R7). -/
structure Pixel where
  r : Byte
  g : Byte
  b : Byte
deriving DecidableEq, Repr, Inhabited

/-- `{r, g, b}` as 24 bits with red in bits 23:16 (rule R25). -/
def Pixel.rgb (p : Pixel) : BitVec 24 := p.r ++ p.g ++ p.b

/-- `{g, r, b}` as 24 bits with green in bits 23:16: a 3-byte read of the frame-byte view (rule R61). -/
def Pixel.grb (p : Pixel) : BitVec 24 := p.g ++ p.r ++ p.b

/-- A register whose reset value the spec leaves unspecified (rule R41).
It always holds a value; `written` says whether an operation has written it since reset.
A read before the first write is `any value` (93_implementation_defined.md U1, U2, U4): see `readReg`. -/
structure Reg (α : Type) where
  value : α
  written : Bool
deriving DecidableEq, Repr

end Sys2Proof
end

