-- ==== Sys2Proof/Config.lean ====
section
/-! DEFINITION. What is fixed for one machine: the constants of rule R5, the open parameters of rule R6, and the free values. -/

namespace Sys2Proof

/-! The constants the document fixes (rule R5). -/

/-- NPIX: pixels in the Pixel Buffer. -/
abbrev Config.npix : Nat := 25
/-- ROWS and COLS of the grid. -/
abbrev Config.rows : Nat := 5
abbrev Config.cols : Nat := 5
/-- CH_BITS: bits per colour channel. -/
abbrev Config.chBits : Nat := 8
/-- FRAME_BYTES: bytes in a frame. -/
abbrev Config.frameBytes : Nat := 75
/-- BIT_RATE in Hz. -/
abbrev Config.bitRate : Nat := 800000
/-- TBIT_NS = 10^9 / BIT_RATE (rules R6, R64). -/
abbrev Config.tbitNs : Nat := 1250
/-- The length of a frame, 600 cells (rule R65). -/
abbrev Config.frameNs : Nat := 750000
/-- T_GAP: the reset gap the driver holds (rules R5, R66). -/
abbrev Config.gapNs : Nat := 100000
/-- T_RESET_MIN: the least idle time after a frame (rules R5, R66). -/
abbrev Config.resetMinNs : Nat := 80000
/-- HOLD_ANIM, HOLD_DEBOUNCE and REFRESH_MS in milliseconds. -/
abbrev Config.holdAnimMs : Nat := 2000
abbrev Config.holdDebounceMs : Nat := 500
abbrev Config.refreshMs : Nat := 5000
/-- DROP_COL: the column of the falling dot. -/
abbrev Config.dropCol : Nat := 2
/-- N_ENGINES: the timing engines tried. -/
abbrev Config.nEngines : Nat := 2
/-- The simulated temperature in tenths: 270..299 (rules R5, R33). -/
abbrev Config.tempLo : Nat := 270
abbrev Config.tempCount : Nat := 30
/-- The simulated pH in tenths: 60..79. -/
abbrev Config.phLo : Nat := 60
abbrev Config.phCount : Nat := 20
/-- The simulated water level: 95..100. -/
abbrev Config.levelLo : Nat := 95
abbrev Config.levelCount : Nat := 6
/-- LINE_HEIGHT: the display text line height in pixels. -/
abbrev Config.lineHeight : Nat := 8

/-- COL_ACCENT, COL_BG, COL_GREEN, COL_WHITE (rule R5) and black (rule R197), as (r,g,b). -/
def Config.colAccent : Pixel := ⟨255, 165, 0⟩
def Config.colBg : Pixel := ⟨0, 0, 255⟩
def Config.colGreen : Pixel := ⟨0, 255, 0⟩
def Config.colWhite : Pixel := ⟨255, 255, 255⟩
def Config.colBlack : Pixel := ⟨0, 0, 0⟩

/-- The open parameters of rule R6 that a step or the waveform depends on.
They are plain data, carried in `State.cfg` and changed by no step, so a statement about every state holds for
every value of them; `Config.wf` is the constraint rule R6 lets a model assume. -/
structure Config where
  /-- OP_MAX_NS: the greatest overhead of one operation (rule R9). -/
  opMaxNs : Nat
  /-- TIMER_BITS: the width of NOW_MS and LAST (rules R31, R32). -/
  timerBits : Nat
  /-- T0H_NS and T1H_NS: the high times of a 0 and of a 1 (rule R64). -/
  t0hNs : Nat
  t1hNs : Nat
  /-- MSB_FIRST: which bit of a byte goes first (rule R63). -/
  msbFirst : Bool
  /-- LED_PIN, BTN_A_PIN, BTN_B_PIN (rule R6): they name pads, and no operation reads them. -/
  ledPin : Byte
  btnAPin : Byte
  btnBPin : Byte
deriving DecidableEq, Repr

/-- The constraints of rule R6. -/
abbrev Config.wf (c : Config) : Prop :=
  c.opMaxNs < 1000000 ∧ 13 ≤ c.timerBits ∧ 0 < c.t0hNs ∧ c.t0hNs < c.t1hNs ∧ c.t1hNs < Config.tbitNs ∧
  c.btnAPin ≠ c.btnBPin ∧ c.btnAPin ≠ c.ledPin ∧ c.btnBPin ≠ c.ledPin

/-- The parameters `State.reset` carries: the defaults rule R6 suggests, and, for the three pin numbers, for which it
suggests none, numbers of the model's own.
DESIGN CHOICE, unsafe (notes/assumptions/5.md and 6.md); no statement rests on them. -/
def Config.default : Config :=
  { opMaxNs := 0, timerBits := 32, t0hNs := 400, t1hNs := 800, msbFirst := true,
    ledPin := 0, btnAPin := 1, btnBPin := 2 }

/-! The free values: constants with no body, so that no proof can see what they are. The first argument is always the
number of operations executed so far (`Env.opCount`), which makes each use a fresh value. -/

/-- `any value` of a pixel read before it is written (U1): the operation's number, then the pixel's index. -/
opaque Config.freePixel : Nat → Nat → Pixel
/-- `any value` of IDX before the first RAND (U2). -/
opaque Config.freeIdx : Nat → Byte
/-- `any value` of TEMP10, PH10 and LEVEL before the first SGEN (U4), each of its register's width. -/
opaque Config.freeTemp10 : Nat → BitVec 16
opaque Config.freePh10 : Nat → Byte
opaque Config.freeLevel : Nat → Byte
/-- The environment's draws (rule R8): RAND's index, SGEN's three values, an operation's overhead.
Each is brought into its range by `drawInto`. -/
opaque Config.drawIndex : Nat → Nat
opaque Config.drawTemp : Nat → Nat
opaque Config.drawPh : Nat → Nat
opaque Config.drawLevel : Nat → Nat
opaque Config.drawOverhead : Nat → Nat

/-! Open parameters that no step depends on (rule R6): the clock, and what becomes of a `Text` event outside AQM-LED. -/

/-- F_CLK: no rule depends on it (rule R9). -/
opaque Config.fClk : Nat
/-- LABEL_k, FMT_k and ORIGIN_k (rules R6, R172). -/
opaque Config.label : Nat → String
opaque Config.fmt : Nat → String → Nat → String
opaque Config.origin : Nat → Nat × Nat

end Sys2Proof
end

