-- ==== Sys2Proof/Syntax.lean ====
section
/-! DEFINITION. The 17 operations of rule R103, one constructor per row of spec/opcode_table.json. -/

namespace Sys2Proof

/-- One operation with its operand fields as they stand in the word (rules R101, R102, R103). -/
inductive Instr where
  /-- INIT pin: claim a timing engine, set it up, zero-fill the Pixel Buffer (rule R130). -/
  | init (pin : Byte)
  /-- SET idx, r, g, b: write one pixel (rule R131). -/
  | set (idx r g b : Byte)
  /-- SETX r, g, b: write the pixel whose index is in IDX (rule R132). -/
  | setx (r g b : Byte)
  /-- CLEAR: set every pixel to black (rule R133). -/
  | clear
  /-- WRITE: send the Pixel Buffer as one frame and hold the reset gap (rule R134). -/
  | write
  /-- GET idx: read one pixel into RDATA (rule R135). -/
  | get (idx : Byte)
  /-- HOLD imm: blocking timed hold of imm milliseconds (rule R151). -/
  | hold (imm : BitVec 32)
  /-- RAND: draw a pixel index (rule R152). -/
  | rand
  /-- BNP sel, target: branch if the selected button is not pressed (rule R153). -/
  | bnp (sel : Byte) (target : PcWord)
  /-- BND ms, target: branch if the refresh is not due (rule R154). -/
  | bnd (ms : BitVec 16) (target : PcWord)
  /-- JMP target (rule R155). -/
  | jmp (target : PcWord)
  /-- TSTAMP: update the refresh timestamp (rule R156). -/
  | tstamp
  /-- HALT: stop for good (rule R157). -/
  | halt
  /-- DCLR: clear the three text lines (rule R170). -/
  | dclr
  /-- SGEN: generate the three simulated sensor values (rule R171). -/
  | sgen
  /-- DTEXT line: format one value and draw its text line (rule R172). -/
  | dtext (line : Byte)
  /-- DREND: push the framebuffer to the display (rule R173). -/
  | drend
deriving DecidableEq, Repr

end Sys2Proof
end

