-- ==== Sys2Proof/WellFormed.lean ====
section
/-! DEFINITION. Which terms of Instr are operations: the two value checks of rule R104 (c) and (d). -/

namespace Sys2Proof

/-- BNP's `sel` is 0 or 1 and DTEXT's `n` is 0, 1 or 2; every other field value is legal (rule R104). -/
def Instr.WellFormed : Instr → Bool
  | .init _ => true
  | .set _ _ _ _ => true
  | .setx _ _ _ => true
  | .clear => true
  | .write => true
  | .get _ => true
  | .hold _ => true
  | .rand => true
  | .bnp sel _ => decide (sel.toNat ≤ 1)
  | .bnd _ _ => true
  | .jmp _ => true
  | .tstamp => true
  | .halt => true
  | .dclr => true
  | .sgen => true
  | .dtext line => decide (line.toNat ≤ 2)
  | .drend => true

end Sys2Proof
end

