-- ==== Sys2Proof/Decode.lean ====
section
/-! DEFINITION. The decoder, total on every 40-bit word, and the encoder, from rules R100 to R104. -/

namespace Sys2Proof

/-- Why a word is illegal (rule R104). -/
inductive IllegalReason where
  /-- (a) `op` is none of the 17 values of rule R103. -/
  | unknownOpcode (op : Byte)
  /-- (b) a must-be-zero field is not zero. -/
  | mustBeZero (op : Byte)
  /-- (c) BNP with `sel > 1`. -/
  | badSelector (sel : Byte)
  /-- (d) DTEXT with `n > 2`. -/
  | badLine (n : Byte)
deriving DecidableEq, Repr

/-! The fields of a word (rules R100, R102). -/

/-- `op = w[39:32]`. -/
def opOf (w : OpWord) : Byte := w.extractLsb' 32 8
/-- The 32 operand bits `w[31:0]`. -/
def restOf (w : OpWord) : BitVec 32 := w.extractLsb' 0 32
/-- `w[31:24]`: idx of format P, sel of format B. -/
def fieldA (x : BitVec 32) : Byte := x.extractLsb' 24 8
/-- `w[23:16]`: r of format P. -/
def fieldB (x : BitVec 32) : Byte := x.extractLsb' 16 8
/-- `w[15:8]`: g of format P. -/
def fieldC (x : BitVec 32) : Byte := x.extractLsb' 8 8
/-- `w[7:0]`: b of format P, n of format N. -/
def fieldD (x : BitVec 32) : Byte := x.extractLsb' 0 8
/-- `ms = w[31:16]` of format T. -/
def fieldMs (x : BitVec 32) : BitVec 16 := x.extractLsb' 16 16
/-- `target = w[15:0]` of formats B and T. -/
def fieldTarget (x : BitVec 32) : PcWord := x.extractLsb' 0 16

/-- The instruction, if the fields the format says must be zero are zero (rule R104 (b)). -/
def whenZero (mbz : Bool) (op : Byte) (i : Instr) : Except IllegalReason Instr :=
  if mbz then .ok i else .error (.mustBeZero op)

/-- BNP: `sel` is 0 or 1 and `w[23:16]` is zero (rules R101, R104 (b), (c)). -/
def decodeBnp (x : BitVec 32) : Except IllegalReason Instr :=
  if (fieldA x).toNat ≤ 1 then whenZero (fieldB x == 0) 0x12 (.bnp (fieldA x) (fieldTarget x))
  else .error (.badSelector (fieldA x))

/-- DTEXT: `n` is 0, 1 or 2 and `w[31:8]` is zero (rules R101, R104 (b), (d)). -/
def decodeDtext (x : BitVec 32) : Except IllegalReason Instr :=
  if x.extractLsb' 8 24 = 0 then
    (if (fieldD x).toNat ≤ 2 then .ok (.dtext (fieldD x)) else .error (.badLine (fieldD x)))
  else .error (.mustBeZero 0x22)

/-- Decoding (rules R100, R101, R103, R104): a word is read whole, and nothing but these fields is checked. -/
def decode (w : OpWord) : Except IllegalReason Instr :=
  let x := restOf w
  match opOf w with
  | 0x01#8 => whenZero (x.extractLsb' 8 24 == 0) 0x01 (.init (fieldD x))
  | 0x02#8 => .ok (.set (fieldA x) (fieldB x) (fieldC x) (fieldD x))
  | 0x03#8 => whenZero (fieldA x == 0) 0x03 (.setx (fieldB x) (fieldC x) (fieldD x))
  | 0x04#8 => whenZero (x == 0) 0x04 .clear
  | 0x05#8 => whenZero (x == 0) 0x05 .write
  | 0x06#8 => whenZero (x.extractLsb' 0 24 == 0) 0x06 (.get (fieldA x))
  | 0x10#8 => .ok (.hold x)
  | 0x11#8 => whenZero (x == 0) 0x11 .rand
  | 0x12#8 => decodeBnp x
  | 0x13#8 => .ok (.bnd (fieldMs x) (fieldTarget x))
  | 0x14#8 => whenZero (fieldMs x == 0) 0x14 (.jmp (fieldTarget x))
  | 0x15#8 => whenZero (x == 0) 0x15 .tstamp
  | 0x1F#8 => whenZero (x == 0) 0x1F .halt
  | 0x20#8 => whenZero (x == 0) 0x20 .dclr
  | 0x21#8 => whenZero (x == 0) 0x21 .sgen
  | 0x22#8 => decodeDtext x
  | 0x23#8 => whenZero (x == 0) 0x23 .drend
  | op => .error (.unknownOpcode op)

/-- The opcode of an operation (rule R103, column `op`). -/
def Instr.opcode : Instr → Byte
  | .init _ => 0x01
  | .set _ _ _ _ => 0x02
  | .setx _ _ _ => 0x03
  | .clear => 0x04
  | .write => 0x05
  | .get _ => 0x06
  | .hold _ => 0x10
  | .rand => 0x11
  | .bnp _ _ => 0x12
  | .bnd _ _ => 0x13
  | .jmp _ => 0x14
  | .tstamp => 0x15
  | .halt => 0x1F
  | .dclr => 0x20
  | .sgen => 0x21
  | .dtext _ => 0x22
  | .drend => 0x23

/-- The 32 operand bits of an operation, by its format (rule R101). -/
def Instr.operandBits : Instr → BitVec 32
  | .init pin => 0#24 ++ pin
  | .set idx r g b => idx ++ r ++ g ++ b
  | .setx r g b => 0#8 ++ r ++ g ++ b
  | .clear => 0
  | .write => 0
  | .get idx => idx ++ 0#24
  | .hold imm => imm
  | .rand => 0
  | .bnp sel target => sel ++ 0#8 ++ target
  | .bnd ms target => ms ++ target
  | .jmp target => 0#16 ++ target
  | .tstamp => 0
  | .halt => 0
  | .dclr => 0
  | .sgen => 0
  | .dtext line => 0#24 ++ line
  | .drend => 0

/-- A word from its opcode and its operand bits (rule R100). -/
def mkWord (op : Byte) (x : BitVec 32) : OpWord := op ++ x

/-- The word of an operation (rules R100, R101, R103). -/
def encode (i : Instr) : OpWord := mkWord i.opcode i.operandBits

/-- A row of the opcode map (rule R103): a word `w` is the operation iff `w & mask == match`. -/
structure OpRow where
  op : Byte
  matchBits : OpWord
  mask : OpWord
deriving DecidableEq, Repr

/-- `w & mask == match`. -/
abbrev OpRow.Accepts (row : OpRow) (w : OpWord) : Prop := w &&& row.mask = row.matchBits

/-- The opcode map of rule R103 as the spec's table writes it; the decoder above is written from the formats, and a
statement says the two agree. -/
def opTable : List OpRow :=
  [⟨0x01, 0x0100000000, 0xFFFFFFFF00⟩, ⟨0x02, 0x0200000000, 0xFF00000000⟩,
   ⟨0x03, 0x0300000000, 0xFFFF000000⟩, ⟨0x04, 0x0400000000, 0xFFFFFFFFFF⟩,
   ⟨0x05, 0x0500000000, 0xFFFFFFFFFF⟩, ⟨0x06, 0x0600000000, 0xFF00FFFFFF⟩,
   ⟨0x10, 0x1000000000, 0xFF00000000⟩, ⟨0x11, 0x1100000000, 0xFFFFFFFFFF⟩,
   ⟨0x12, 0x1200000000, 0xFFFEFF0000⟩, ⟨0x13, 0x1300000000, 0xFF00000000⟩,
   ⟨0x14, 0x1400000000, 0xFFFFFF0000⟩, ⟨0x15, 0x1500000000, 0xFFFFFFFFFF⟩,
   ⟨0x1F, 0x1F00000000, 0xFFFFFFFFFF⟩, ⟨0x20, 0x2000000000, 0xFFFFFFFFFF⟩,
   ⟨0x21, 0x2100000000, 0xFFFFFFFFFF⟩, ⟨0x22, 0x2200000000, 0xFFFFFFFFFC⟩,
   ⟨0x23, 0x2300000000, 0xFFFFFFFFFF⟩]

/-- What the decoder reads from the operation word whose bits are `w`; every operation is one 40-bit word (rule R106),
so a longer one is none. -/
def decodeTableWord (nbits w : Nat) : Option Instr :=
  if nbits ≤ 40 ∧ w < 2 ^ 40 then (decode (BitVec.ofNat 40 w)).toOption else none

end Sys2Proof
end

