-- ==== Sys2Proof/Machine/Rom.lean ====
section
/-! DEFINITION. The shipped ROM, word by word (rule R185), the listing beside it, the index formula (rule R22) and the
pseudo-instructions of the listings (rule R108). -/

namespace Sys2Proof.Machine

/-- index = row×5 + column (rules R22, R71). -/
def pixelIndex (row col : Nat) : Nat := row * Config.cols + col

/-- `SETRC row, col, r, g, b` (rule R108), for row and col in 0..4. -/
def setrc (row col : Nat) (c : Pixel) : Instr := .set (BitVec.ofNat 8 (pixelIndex row col)) c.r c.g c.b

/-- `FILLROW row, r, g, b`: five SETs in ascending column order (rule R108). -/
def fillRow (row : Nat) (c : Pixel) : List Instr := (List.range Config.cols).map fun col => setrc row col c

/-- `NOP` is `HOLD 0` (rules R105, R108). -/
def nop : Instr := .hold 0

/-- `SETX` with a named colour (rule R107). -/
def setxColour (c : Pixel) : Instr := .setx c.r c.g c.b

/-- Words 0x01 to 0x08: the idle twinkle (rule R188). -/
def romTwinkle : List OpWord :=
  [0x1100000000, 0x0300FFA500, 0x0500000000, 0x10000007D0,
   0x03000000FF, 0x0500000000, 0x10000007D0, 0x120000001F]

/-- Words 0x09 to 0x1F: drop-green-dot, its debounce hold and the poll of button B (rules R189, R191). -/
def romDrop : List OpWord :=
  [0x021600FF00, 0x0500000000, 0x10000007D0, 0x02160000FF, 0x021100FF00, 0x0500000000, 0x10000007D0,
   0x02110000FF, 0x020C00FF00, 0x0500000000, 0x10000007D0, 0x020C0000FF, 0x020700FF00, 0x0500000000,
   0x10000007D0, 0x02070000FF, 0x020200FF00, 0x0500000000, 0x10000007D0, 0x02020000FF, 0x0500000000,
   0x10000001F4, 0x120100003C]

/-- Words 0x20 to 0x3B: blink-last-two-rows and its debounce hold (rules R190, R192). -/
def romBlink : List OpWord :=
  [0x0214FFFFFF, 0x0215FFFFFF, 0x0216FFFFFF, 0x0217FFFFFF, 0x0218FFFFFF, 0x0500000000, 0x10000007D0,
   0x020FFFFFFF, 0x0210FFFFFF, 0x0211FFFFFF, 0x0212FFFFFF, 0x0213FFFFFF, 0x0500000000, 0x10000007D0,
   0x020F0000FF, 0x02100000FF, 0x02110000FF, 0x02120000FF, 0x02130000FF, 0x0500000000, 0x10000007D0,
   0x02140000FF, 0x02150000FF, 0x02160000FF, 0x02170000FF, 0x02180000FF, 0x0500000000, 0x10000001F4]

/-- Words 0x3C to 0x44: the refresh gate, the refresh and the jump back (rule R193). -/
def romRefresh : List OpWord :=
  [0x1313880001, 0x2000000000, 0x2100000000, 0x2200000000, 0x2200000001, 0x2200000002, 0x2300000000,
   0x1500000000, 0x1400000001]

/-- The shipped ROM, 69 words (rule R185, column `word`); word 0, the boot (rule R186), holds LED_PIN. -/
def shippedRom (ledPin : Byte) : List OpWord :=
  (0x0100000000 ||| ledPin.setWidth 40) :: (romTwinkle ++ romDrop ++ romBlink ++ romRefresh)

/-- One step of drop-green-dot: write the frame and hold (rule R189). -/
def writeAndHold : List Instr := [.write, .hold (BitVec.ofNat 32 Config.holdAnimMs)]

/-- Words 0x01 to 0x44 of rule R185's column `operation`: the loop, written with the names of rules R5 and R108. -/
def loopListing : List Instr :=
  [.rand, setxColour Config.colAccent] ++ writeAndHold
  ++ [setxColour Config.colBg] ++ writeAndHold ++ [.bnp 0 0x1F]
  ++ [setrc 4 Config.dropCol Config.colGreen] ++ writeAndHold
  ++ [setrc 4 Config.dropCol Config.colBg, setrc 3 Config.dropCol Config.colGreen] ++ writeAndHold
  ++ [setrc 3 Config.dropCol Config.colBg, setrc 2 Config.dropCol Config.colGreen] ++ writeAndHold
  ++ [setrc 2 Config.dropCol Config.colBg, setrc 1 Config.dropCol Config.colGreen] ++ writeAndHold
  ++ [setrc 1 Config.dropCol Config.colBg, setrc 0 Config.dropCol Config.colGreen] ++ writeAndHold
  ++ [setrc 0 Config.dropCol Config.colBg, .write, .hold (BitVec.ofNat 32 Config.holdDebounceMs), .bnp 1 0x3C]
  ++ fillRow 4 Config.colWhite ++ writeAndHold ++ fillRow 3 Config.colWhite ++ writeAndHold
  ++ fillRow 3 Config.colBg ++ writeAndHold ++ fillRow 4 Config.colBg
  ++ [.write, .hold (BitVec.ofNat 32 Config.holdDebounceMs), .bnd (BitVec.ofNat 16 Config.refreshMs) 0x01]
  ++ [.dclr, .sgen, .dtext 0, .dtext 1, .dtext 2, .drend, .tstamp, .jmp 0x01]

/-- The operations of the shipped ROM (rule R185). -/
def shippedListing (ledPin : Byte) : List Instr := .init ledPin :: loopListing

end Sys2Proof.Machine
end

