-- ==== Sys2Proof/Machine/State.lean ====
section
/-! DEFINITION. The whole state of AQM-LED as plain data (rules R20, R36, R37, R41), the environment's inputs and the open
parameters beside it (rule R40), the two stop types, and the state after reset. -/

namespace Sys2Proof.Machine

/-- ENG: which timing engine is claimed (rules R20, R30). -/
inductive Engine where
  | unclaimed
  | primary
  | secondary
deriving DecidableEq, Repr

/-- ENG's 2-bit code: 0 none, 1 primary, 2 secondary; value 3 never occurs (rule R30). -/
def Engine.code : Engine → BitVec 2
  | .unclaimed => 0
  | .primary => 1
  | .secondary => 2

/-- An entry of WIRE: the instant of the first rising edge and the 75 bytes (rule R36). -/
structure Frame where
  t0 : Nat
  bytes : Vector Byte 75
deriving DecidableEq, Repr

/-- An entry of DISP (rule R37): `Clear3(t)`, `Text(t, k, value)`, `Render(t)`. -/
inductive DispEvent where
  | clear3 (t : Nat)
  | text (t line value : Nat)
  | render (t : Nat)
deriving DecidableEq, Repr

/-- The instant of a display event. -/
def DispEvent.time : DispEvent → Nat
  | .clear3 t => t
  | .text t _ _ => t
  | .render t => t

/-- A change of a button pin's level: from `time` on the pin reads `level` (true = high = not pressed). -/
structure Edge where
  time : Nat
  level : Bool
deriving DecidableEq, Repr

/-- One triple of SGEN's draws (rule R171). -/
structure SensorDraw where
  temp : Nat
  ph : Nat
  level : Nat
deriving DecidableEq, Repr

/-- What the environment supplies (rules R10, R40), as plain data.
A button's level as a function of time is a list of its edges, in time order (rule R34).
A draw is the head of its queue, brought into its range; when the queue is empty it is a free value (rule R8). -/
structure Env where
  /-- BTN_A_N(t) and BTN_B_N(t). -/
  btnA : List Edge
  btnB : List Edge
  /-- TE_AVAIL[0] and TE_AVAIL[1] (rule R35). -/
  teAvail0 : Bool
  teAvail1 : Bool
  /-- The draws the environment has fixed in advance: overheads, RAND's indices, SGEN's triples. -/
  overheads : List Nat
  indices : List Nat
  sensors : List SensorDraw
  /-- The model's own counter: how many operations have run; each free value is taken at it. -/
  opCount : Nat
deriving DecidableEq, Repr

/-- The machine's state. The fields down to `level` and `wire`, `disp` are the spec's (rule R20); `tNs` is the time base
(rule R9); `env`, `rom` and `cfg` are the parameters of the step relation (rule R40), which stand here because a step is
a function of the state alone. -/
structure State where
  /-- PB[0..24] (rule R21). -/
  pb : Vector (Reg Pixel) 25
  /-- ENG (rule R30). -/
  eng : Engine
  /-- PIN: the operand of INIT (rule R30); no operation reads it. -/
  pin : Byte
  /-- RATE in Hz: 800 000 after INIT (rule R30); no operation reads it. -/
  rate : Nat
  /-- IDX (rule R24). -/
  idx : Reg Byte
  /-- RDATA `{r, g, b}` (rule R25); no operation reads it. -/
  rdata : BitVec 24
  /-- SEQ.PC (rule R26). -/
  pc : PcWord
  /-- STATUS: bit 0 HALTED, bit 1 IDXERR, 7:2 reserved (rule R28). -/
  status : Byte
  /-- CAUSE and EPC (rule R29); no operation reads them. -/
  cause : BitVec 4
  epc : PcWord
  /-- LAST, the Refresh Timer, TIMER_BITS wide (rule R32): a number below 2^TIMER_BITS. -/
  last : Nat
  /-- TEMP10, PH10, LEVEL (rule R33). -/
  temp10 : Reg (BitVec 16)
  ph10 : Reg Byte
  level : Reg Byte
  /-- T_NS, nanoseconds since the release of reset (rule R9). -/
  tNs : Nat
  /-- WIRE and DISP, oldest entry first (rules R36, R37). -/
  wire : List Frame
  disp : List DispEvent
  /-- The environment's inputs. -/
  env : Env
  /-- The ROM: a list of 40-bit words, fixed for a run (rules R6, R78); its length is ROM_LEN. -/
  rom : List OpWord
  /-- The open parameters of rule R6. -/
  cfg : Config
deriving DecidableEq, Repr

/-- The form of the only addressed store, the ROM: at most 65 536 words (rules R26, R60). A word list has no second
spelling of the same contents, so nothing else is asked of it. -/
abbrev Memory.wf (rom : List OpWord) : Prop := rom.length ≤ 65536

/-- How the machine stops outside the spec's own halt: never. Every fault of rule R220 halts by rule R231, which is a
next state with HALTED, CAUSE and EPC written, so this type has no constructor. Safe: nothing is cut short by it. -/
inductive Fault where
deriving DecidableEq, Repr

/-- Why an instruction has no meaning. -/
inductive Refusal where
  /-- Raised only by an arm of `exec` whose instruction the model does not give a meaning yet (there is none left).
  Safe: nothing is claimed of such an instruction. -/
  | notModelled (mnemonic : String)
deriving DecidableEq, Repr

/-- A register that holds `v` and has not been written since reset (rule R41, "unspecified"). -/
def unwritten {α : Type} (v : α) : Reg α := ⟨v, false⟩

/-- The state at the release of reset (rules R41, R250), for given parameters, ROM and environment.
PB, IDX, TEMP10, PH10 and LEVEL are unspecified: the zero they hold is never read, see `readReg`.
DESIGN CHOICE: the zeros of those registers and of PIN, RATE and RDATA (notes/assumptions/9.md to 12.md). -/
def State.resetWith (cfg : Config) (rom : List OpWord) (env : Env) : State :=
  { pb := Vector.replicate 25 (unwritten Config.colBlack)
    eng := .unclaimed
    pin := 0
    rate := 0
    idx := unwritten 0
    rdata := 0
    pc := 0
    status := 0
    cause := 0
    epc := 0
    last := 0
    temp10 := unwritten 0
    ph10 := unwritten 0
    level := unwritten 0
    tNs := 0
    wire := []
    disp := []
    env := env
    rom := rom
    cfg := cfg }

/-- An environment in which nothing drives the button pins (rule R41: the pull-up gives 1), both timing engines are
free and no draw is fixed.
DESIGN CHOICE, unsafe: that both engines are free (notes/assumptions/7.md); no statement rests on it. -/
def Env.default : Env :=
  { btnA := [], btnB := [], teAvail0 := true, teAvail1 := true,
    overheads := [], indices := [], sensors := [], opCount := 0 }

/-- The machine right after reset (rules R41, R250): the shipped ROM (rule R185) and the suggested parameters (rule R6). -/
def State.reset : State :=
  State.resetWith Config.default (shippedRom Config.default.ledPin) Env.default

/-- Reset asserted and released (rules R233, R250, R251): the only way out of HALTED. The ROM and the parameters stay;
the time base starts again at 0, so the environment's inputs over it are given anew; nothing else survives. -/
def State.assertReset (s : State) (env : Env) : State := State.resetWith s.cfg s.rom env

end Sys2Proof.Machine
end

