-- ==== Sys2Proof/Machine/Operands.lean ====
section
/-! DEFINITION. What an operation reads: registers, the time base, the pins and the environment's draws (rules R8, R9, R31, R34,
R35, R61, R153, R172). -/

namespace Sys2Proof.Machine

/-- Reading a register: its value, or, when no operation has written it since reset, `any value` (rule R41; U1, U2, U4). -/
def readReg {α : Type} (r : Reg α) (free : α) : α := if r.written then r.value else free

/-- A register just written with `v`. -/
def written {α : Type} (v : α) : Reg α := ⟨v, true⟩

/-- `PB[i]` (rule R8). -/
def State.pixel (s : State) (i : Fin 25) : Pixel := readReg s.pb[i] (Config.freePixel s.env.opCount i)

/-- IDX as SETX reads it (rule R132). -/
def State.idxValue (s : State) : Byte := readReg s.idx (Config.freeIdx s.env.opCount)

/-- The value DTEXT sends for a line (rule R172): 0 TEMP10, 1 PH10, else LEVEL. -/
def State.lineValue (s : State) (n : Byte) : Nat :=
  if n = 0 then (readReg s.temp10 (Config.freeTemp10 s.env.opCount)).toNat
  else if n = 1 then (readReg s.ph10 (Config.freePh10 s.env.opCount)).toNat
  else (readReg s.level (Config.freeLevel s.env.opCount)).toNat

/-! The frame-byte view of the Pixel Buffer (rules R8, R61). -/

/-- `FB[k]`: channel `k mod 3` of pixel `k div 3`, 0 green, 1 red, 2 blue. -/
def State.frameByte (s : State) (k : Fin 75) : Byte :=
  let p := s.pixel ⟨k.val / 3, by omega⟩
  if k.val % 3 = 0 then p.g else if k.val % 3 = 1 then p.r else p.b

/-- `MemRead(k, 1) = FB[k]`; there is no byte outside 0..74. -/
def State.memRead1 (s : State) (addr : Nat) : Option Byte :=
  if h : addr < 75 then some (s.frameByte ⟨addr, h⟩) else none

/-- `MemRead(3i, 3) = {PB[i].g, PB[i].r, PB[i].b}`; no other alignment exists. -/
def State.memRead3 (s : State) (addr : Nat) : Option (BitVec 24) :=
  if h : addr % 3 = 0 ∧ addr / 3 < 25 then some (s.pixel ⟨addr / 3, h.2⟩).grb else none

/-- The 75 bytes of a frame, FB[0] to FB[74] in that order (rule R62). -/
def State.frame (s : State) : Vector Byte 75 := Vector.ofFn s.frameByte

/-! Time (rules R9, R31). -/

/-- NOW_US = T_NS div 1000 (rule R9). -/
def State.nowUs (s : State) : Nat := s.tNs / 1000

/-- NOW_MS = (T_NS div 10^6) mod 2^TIMER_BITS. -/
def State.nowMs (s : State) : Nat := s.tNs / 1000000 % 2 ^ s.cfg.timerBits

/-- `a -_N b = (a + 2^N - b) mod 2^N` (rule R7). -/
def subMod (n a b : Nat) : Nat := (a + 2 ^ n - b) % 2 ^ n

/-- The elapsed time BND compares: NOW_MS -_TIMER_BITS LAST (rules R154, R158). -/
def State.elapsedMs (s : State) : Nat := subMod s.cfg.timerBits s.nowMs s.last

/-! Pins (rules R34, R35, R81). -/

/-- The level of a pin at `t`: that of its last edge not later than `t`; 1 by the pull-up before any. -/
def levelAt (edges : List Edge) (t : Nat) : Bool :=
  edges.foldl (fun level e => if e.time ≤ t then e.level else level) true

/-- BNP's one sample, at the instant the operation starts (rule R153): button A for `sel` 0, else button B. -/
def State.buttonLevel (s : State) (sel : Byte) : Bool :=
  levelAt (if sel = 0 then s.env.btnA else s.env.btnB) s.tNs

/-- The timing engine INIT finds: the primary, else the secondary, else none (rules R35, R130). -/
def State.freeEngine (s : State) : Option Engine :=
  if s.env.teAvail0 then some .primary else if s.env.teAvail1 then some .secondary else none

/-! Draws (rules R8, R9, R152, R171). -/

/-- A value in `lo .. lo + n - 1` made from any number: the number itself where it lies there. -/
def drawInto (lo n d : Nat) : Nat := if lo ≤ d ∧ d < lo + n then d else lo + d % n

/-- The overhead of the operation now executing, in 0..OP_MAX_NS (rule R9). -/
def State.overhead (s : State) : Nat :=
  if s.cfg.opMaxNs = 0 then 0
  else drawInto 0 (s.cfg.opMaxNs + 1) (s.env.overheads.headD (Config.drawOverhead s.env.opCount))

/-- RAND's draw, in 0..24 (rule R152). -/
def State.indexDraw (s : State) : Nat :=
  drawInto 0 Config.npix (s.env.indices.headD (Config.drawIndex s.env.opCount))

/-- SGEN's three draws before they are brought into range (rule R171). -/
def State.sensorDraw (s : State) : SensorDraw :=
  s.env.sensors.headD
    ⟨Config.drawTemp s.env.opCount, Config.drawPh s.env.opCount, Config.drawLevel s.env.opCount⟩

end Sys2Proof.Machine
end

