-- ==== Sys2Proof/Machine/Flags.lean ====
section
/-! DEFINITION. STATUS and its two sticky bits (rule R28), the conditions the branches test themselves (rule R39), and the codes of
CAUSE (rule R220). -/

namespace Sys2Proof.Machine

/-- STATUS bit 0, HALTED. -/
def State.halted (s : State) : Bool := s.status.getLsbD 0

/-- STATUS bit 1, IDXERR. -/
def State.idxErr (s : State) : Bool := s.status.getLsbD 1

/-- STATUS with HALTED set; nothing clears it but reset. -/
def statusHalted (status : Byte) : Byte := status ||| 0x01

/-- STATUS with IDXERR set; nothing clears it but reset. -/
def statusIdxErr (status : Byte) : Byte := status ||| 0x02

/-- BNP's condition: the sampled level is high, that is, the button is not pressed (rules R34, R153). -/
def State.notPressed (s : State) (sel : Byte) : Bool := s.buttonLevel sel

/-- BND's condition: fewer than `ms` milliseconds since LAST (rule R154). -/
def State.notDue (s : State) (ms : BitVec 16) : Bool := decide (s.elapsedMs < ms.toNat)

/-- The index check of SET, SETX and GET (rules R68, R158): unsigned `idx ≤ 24` on 8 bits. -/
def indexInRange (idx : Byte) : Bool := decide (idx.toNat ≤ 24)

/-- Why SEQ halts (rule R220). -/
inductive HaltCause where
  | haltOp
  | resourceExhaustion
  | illegalOp
  | notInitialised
  | reInit
  | fetchOutOfRange
deriving DecidableEq, Repr

/-- The code CAUSE receives (rule R220). -/
def haltCode : HaltCause → BitVec 4
  | .haltOp => 0
  | .resourceExhaustion => 1
  | .illegalOp => 2
  | .notInitialised => 3
  | .reInit => 4
  | .fetchOutOfRange => 5

end Sys2Proof.Machine
end

