-- ==== Sys2Proof/Machine/Ops.lean ====
section
/-! DEFINITION. The named operations over the state that the meanings share: raising a fault, completing an operation, pixel and
register writes, the two histories, and the fetch. -/

namespace Sys2Proof.Machine

/-- `raise F(info)` (rule R231): HALTED is set, CAUSE gets the code and EPC the pc named in rule R220, and nothing else
changes. There is no return from it (rule R233): only `State.assertReset` leaves the halted state. -/
def State.raise (s : State) (c : HaltCause) (info : PcWord) : State :=
  { s with status := statusHalted s.status, cause := haltCode c, epc := info }

/-- The environment after one executed operation: its overhead is drawn, and the next draw is a fresh one (rule R9). -/
def Env.afterOp (e : Env) : Env := { e with overheads := e.overheads.tail, opCount := e.opCount + 1 }

/-- An operation that took `dur` nanoseconds and its overhead ends with `pc <- target` (rules R9, R150). -/
def State.complete (s : State) (dur : Nat) (target : PcWord) : State :=
  { s with tNs := s.tNs + dur + s.overhead, pc := target, env := s.env.afterOp }

/-- An operation that does not branch ends with `pc <- PC + 1`, on 16 bits (rules R26, R150, R158). -/
def State.advance (s : State) (dur : Nat) : State := s.complete dur (s.pc + 1)

/-- A conditional branch (rules R153, R154): to `target` if the condition holds, else on to the next word. -/
def State.branch (s : State) (taken : Bool) (target : PcWord) : State :=
  s.complete 0 (if taken then target else s.pc + 1)

/-- An index outside 0..24 (rule R222): IDXERR is set and nothing else happens. -/
def State.flagIdxErr (s : State) : State := { s with status := statusIdxErr s.status }

/-- `PB[idx] <- c` if `idx ≤ 24`, all three channels in one step; else the index is rejected (rules R69, R131, R132). -/
def State.writePixel (s : State) (idx : Byte) (c : Pixel) : State :=
  if indexInRange idx then { s with pb := s.pb.setIfInBounds idx.toNat (written c) } else s.flagIdxErr

/-- `MemWrite(3i, 3, {g, r, b})` is `PB[i] <- (r,g,b)`; no other access exists (rules R8, R61). -/
def State.memWrite3 (s : State) (addr : Nat) (v : BitVec 24) : Option State :=
  if addr % 3 = 0 ∧ addr / 3 < 25 then
    some (s.writePixel (BitVec.ofNat 8 (addr / 3))
      ⟨v.extractLsb' 8 8, v.extractLsb' 16 8, v.extractLsb' 0 8⟩)
  else none

/-- Every pixel black (rules R130, R133). -/
def State.clearPixels (s : State) : State := { s with pb := Vector.replicate 25 (written Config.colBlack) }

/-- `RDATA <- {r, g, b}` of pixel `idx` if `idx ≤ 24`; else the index is rejected (rule R135). -/
def State.readPixel (s : State) (idx : Byte) : State :=
  if h : idx.toNat < 25 then { s with rdata := (s.pixel ⟨idx.toNat, h⟩).rgb } else s.flagIdxErr

/-- The claim of a timing engine and its set-up (rule R130): ENG, PIN, RATE. -/
def State.claim (s : State) (e : Engine) (pin : Byte) : State :=
  { s with eng := e, pin := pin, rate := Config.bitRate }

/-- `emit_frame(t0, bytes)` with the whole Pixel Buffer as it stands (rules R8, R36, R75). -/
def State.emitFrame (s : State) (t0 : Nat) : State := { s with wire := s.wire ++ [⟨t0, s.frame⟩] }

/-- `disp(event)` (rules R8, R37). -/
def State.sendDisp (s : State) (e : DispEvent) : State := { s with disp := s.disp ++ [e] }

/-- `IDX <- draw({0..24})` (rule R152). -/
def State.drawIdx (s : State) : State :=
  { s with idx := written (BitVec.ofNat 8 s.indexDraw), env := { s.env with indices := s.env.indices.tail } }

/-- The three draws of SGEN (rule R171). -/
def State.drawSensors (s : State) : State :=
  { s with
    temp10 := written (BitVec.ofNat 16 (drawInto Config.tempLo Config.tempCount s.sensorDraw.temp))
    ph10 := written (BitVec.ofNat 8 (drawInto Config.phLo Config.phCount s.sensorDraw.ph))
    level := written (BitVec.ofNat 8 (drawInto Config.levelLo Config.levelCount s.sensorDraw.level))
    env := { s.env with sensors := s.env.sensors.tail } }

/-- `LAST <- NOW_MS` (rule R156). -/
def State.stampLast (s : State) : State := { s with last := s.nowMs }

/-- The fetch: `ROM[PC]`, or nothing if PC ≥ ROM_LEN (rules R78, R150, R227). -/
def State.fetch (s : State) : Option OpWord := s.rom[s.pc.toNat]?

/-- A ROM with `w` at word `at_`, lengthened with zero words where it is too short to have that word. -/
def romWith (rom : List OpWord) (at_ : Nat) (w : OpWord) : List OpWord :=
  rom.take at_ ++ List.replicate (at_ - rom.length) 0 ++ [w] ++ rom.drop (at_ + 1)

end Sys2Proof.Machine
end

