-- ==== Sys2Proof/Machine/Display.lean ====
section
/-! DEFINITION. The four refresh operations (rules R170 to R173) and what a Text event stands for (rules R6, R172). -/

namespace Sys2Proof.Machine

/-- DCLR (rule R170). -/
def execDclr (s : State) : Host.Outcome State Fault Refusal := .next ((s.sendDisp (.clear3 s.tNs)).advance 0)

/-- SGEN (rule R171). -/
def execSgen (s : State) : Host.Outcome State Fault Refusal := .next (s.drawSensors.advance 0)

/-- DTEXT (rule R172): the event carries the number, not the string. -/
def execDtext (n : Byte) (s : State) : Host.Outcome State Fault Refusal :=
  .next ((s.sendDisp (.text s.tNs n.toNat (s.lineValue n))).advance 0)

/-- DREND (rule R173). -/
def execDrend (s : State) : Host.Outcome State Fault Refusal := .next ((s.sendDisp (.render s.tNs)).advance 0)

/-- The string FMT_n(LABEL_n, value) and the origin ORIGIN_n of a Text event (rule R172), all of them open parameters. -/
def DispEvent.shown : DispEvent → Option (String × (Nat × Nat))
  | .clear3 _ => none
  | .text _ n v => some (Config.fmt n (Config.label n) v, Config.origin n)
  | .render _ => none

end Sys2Proof.Machine
end

