-- ==== Sys2Proof/Machine/Driver.lean ====
section
/-! DEFINITION. The six driver operations (rules R130 to R135). -/

namespace Sys2Proof.Machine

/-- INIT (rule R130): ReInit before ResourceExhaustion (rule R230); on either fault nothing of it has happened. -/
def execInit (pin : Byte) (s : State) : Host.Outcome State Fault Refusal :=
  .next (if s.eng ≠ .unclaimed then s.raise .reInit s.pc
    else match s.freeEngine with
      | none => s.raise .resourceExhaustion s.pc
      | some e => ((s.claim e pin).clearPixels).advance 0)

/-- SET (rule R131). -/
def execSet (idx r g b : Byte) (s : State) : Host.Outcome State Fault Refusal :=
  .next ((s.writePixel idx ⟨r, g, b⟩).advance 0)

/-- SETX (rule R132): SET with its index read from IDX. -/
def execSetx (r g b : Byte) (s : State) : Host.Outcome State Fault Refusal :=
  .next ((s.writePixel s.idxValue ⟨r, g, b⟩).advance 0)

/-- CLEAR (rule R133). -/
def execClear (s : State) : Host.Outcome State Fault Refusal := .next (s.clearPixels.advance 0)

/-- WRITE (rule R134): the frame's first edge comes after the overhead, then 600 cells, then the reset gap. -/
def execWrite (s : State) : Host.Outcome State Fault Refusal :=
  .next (if s.eng = .unclaimed then s.raise .notInitialised s.pc
    else (s.emitFrame (s.tNs + s.overhead)).advance (Config.frameNs + Config.gapNs))

/-- GET (rule R135). -/
def execGet (idx : Byte) (s : State) : Host.Outcome State Fault Refusal := .next ((s.readPixel idx).advance 0)

end Sys2Proof.Machine
end

