-- ==== Sys2Proof/Machine/Sequencer.lean ====
section
/-! DEFINITION. The seven sequencing operations (rules R151 to R157). -/

namespace Sys2Proof.Machine

/-- HOLD (rule R151): `imm` milliseconds on the time base, then on. -/
def execHold (imm : BitVec 32) (s : State) : Host.Outcome State Fault Refusal :=
  .next (s.advance (imm.toNat * 1000000))

/-- RAND (rule R152). -/
def execRand (s : State) : Host.Outcome State Fault Refusal := .next (s.drawIdx.advance 0)

/-- BNP (rule R153). -/
def execBnp (sel : Byte) (target : PcWord) (s : State) : Host.Outcome State Fault Refusal :=
  .next (s.branch (s.notPressed sel) target)

/-- BND (rule R154). -/
def execBnd (ms : BitVec 16) (target : PcWord) (s : State) : Host.Outcome State Fault Refusal :=
  .next (s.branch (s.notDue ms) target)

/-- JMP (rule R155): the target is not checked here. -/
def execJmp (target : PcWord) (s : State) : Host.Outcome State Fault Refusal := .next (s.complete 0 target)

/-- TSTAMP (rule R156): NOW_MS read when TSTAMP itself starts. -/
def execTstamp (s : State) : Host.Outcome State Fault Refusal := .next (s.stampLast.advance 0)

/-- HALT (rule R157): HALTED with CAUSE 0 and EPC the pc of the HALT; no time passes. -/
def execHalt (s : State) : Host.Outcome State Fault Refusal := .next (s.raise .haltOp s.pc)

end Sys2Proof.Machine
end

