-- ==== Sys2Proof/Machine/Dispatch.lean ====
section
/-! DEFINITION. One arm per operation (rule R103, column `semantics`). -/

namespace Sys2Proof.Machine

def exec (i : Instr) (s : State) : Host.Outcome State Fault Refusal :=
  match i with
  | .init pin => Sys2Proof.Machine.execInit pin s
  | .set idx r g b => Sys2Proof.Machine.execSet idx r g b s
  | .setx r g b => Sys2Proof.Machine.execSetx r g b s
  | .clear => Sys2Proof.Machine.execClear s
  | .write => Sys2Proof.Machine.execWrite s
  | .get idx => Sys2Proof.Machine.execGet idx s
  | .hold imm => Sys2Proof.Machine.execHold imm s
  | .rand => Sys2Proof.Machine.execRand s
  | .bnp sel target => Sys2Proof.Machine.execBnp sel target s
  | .bnd ms target => Sys2Proof.Machine.execBnd ms target s
  | .jmp target => Sys2Proof.Machine.execJmp target s
  | .tstamp => Sys2Proof.Machine.execTstamp s
  | .halt => Sys2Proof.Machine.execHalt s
  | .dclr => Sys2Proof.Machine.execDclr s
  | .sgen => Sys2Proof.Machine.execSgen s
  | .dtext line => Sys2Proof.Machine.execDtext line s
  | .drend => Sys2Proof.Machine.execDrend s

end Sys2Proof.Machine
end

