-- ==== Sys2Proof/Machine/Waveform.lean ====
section
/-! DEFINITION. DOUT as a function of WIRE (rules R36, R63, R64, R65, R67). -/

namespace Sys2Proof.Machine

/-- Bit number `i` of a byte on the wire (rule R63): bit 7 first if MSB_FIRST, else bit 0 first. -/
def wireBit (msbFirst : Bool) (byte : Byte) (i : Nat) : Bool :=
  if msbFirst then byte.getLsbD (7 - i) else byte.getLsbD i

/-- Frame bit number `n`, 0 ≤ n ≤ 599: it belongs to byte `n div 8` (rule R63). -/
def Frame.bit (f : Frame) (msbFirst : Bool) (n : Nat) : Bool :=
  wireBit msbFirst (f.bytes[n / 8]?.getD 0) (n % 8)

/-- TH(v): how long DOUT is high in the cell of a bit (rule R64). -/
def highNs (c : Config) (v : Bool) : Nat := if v then c.t1hNs else c.t0hNs

/-- The level a frame puts on DOUT at `t`: in the cell of bit `n`, high for the first TH nanoseconds, then low; low
outside the frame's 600 cells (rules R64, R65, R67). -/
def Frame.high (f : Frame) (c : Config) (t : Nat) : Bool :=
  decide (f.t0 ≤ t ∧ t < f.t0 + Config.frameNs ∧
    (t - f.t0) % Config.tbitNs < highNs c (f.bit c.msbFirst ((t - f.t0) / Config.tbitNs)))

/-- DOUT at instant `t`, as far as the frames sent so far say (rule R36): low outside frames. -/
def State.dout (s : State) (t : Nat) : Bool := s.wire.any fun f => f.high s.cfg t

end Sys2Proof.Machine
end

