-- ==== Sys2Proof/Machine/Step.lean ====
section
/-! DEFINITION. One step of SEQ (rules R150, R230), and the placing of a word where the next step fetches. -/

namespace Sys2Proof.Machine

/-- One step (rule R150), in the order of rule R230: halted, fetch range, decode, then the operation's own rule.
A halted SEQ takes no step: the state stays as it is (rules R27, R233; notes/assumptions/1.md). -/
def step (s : State) : Host.Outcome State Fault Refusal :=
  if s.halted then .next s
  else match s.fetch with
    | none => .next (s.raise .fetchOutOfRange s.pc)
    | some w =>
      match decode w with
      | .error _ => .next (s.raise .illegalOp s.pc)
      | .ok i => exec i s

/-- `s` with the word at PC replaced by the 40-bit word `w` (of `nbits` bits, none above them); a ROM too short to have
a word there is lengthened with zero words. Nothing but the ROM changes. -/
def State.withFetchWord (s : State) (nbits w : Nat) : State :=
  { s with rom := romWith s.rom s.pc.toNat (BitVec.ofNat 40 (w % 2 ^ nbits)) }

end Sys2Proof.Machine
end

