-- ==== Sys2Proof/Safety.lean ====
section
/-! DEFINITION. What counts as a safe run (rule R232), how an operation completes (rules R9, R150, R265), which words are
legal (rule R104), and the invariant every step keeps. -/

namespace Sys2Proof.Machine

/-- Halted by a fault: HALTED with a CAUSE other than 0 (rule R232). -/
def State.faulted (s : State) : Bool := s.halted && s.cause != 0

/-- The one good end of a test ROM: HALTED by the HALT operation (rule R232). -/
def State.goodEnd (s : State) : Bool := s.halted && s.cause == 0

/-- No fault so far and no invalid index (rules R28, R232). -/
def State.safe (s : State) : Bool := !s.faulted && !s.idxErr

/-- The first `n` steps from `s` all leave a safe state. -/
def RunsSafely (n : Nat) (s : State) : Prop :=
  ∀ k ≤ n, ∃ t : State, Host.Core.run Sys2Proof.core k s = .next t ∧ t.safe = true

/-- A legal word (rules R103, R104): it matches a row of the opcode map, and if that row is DTEXT's, `n ≤ 2`. -/
def LegalWord (w : OpWord) : Prop :=
  ∃ row ∈ opTable, row.Accepts w ∧ (row.op = 0x22 → (w.extractLsb' 0 8).toNat ≤ 2)

/-- Operation `i` executed in `s` completes with the effects that turn `s` into `u`: it then takes `dur` nanoseconds and
an overhead of at most OP_MAX_NS (rule R9), and ends with `pc <- next` (rule R150). Everything else is as in `u`, but for
the model's own bookkeeping of draws, `Env.afterOp` (notes/assumptions/3.md and 4.md). -/
def CompletesWith (i : Instr) (s : State) (dur : Nat) (next : PcWord) (u : State) : Prop :=
  ∃ o ≤ s.cfg.opMaxNs,
    exec i s = .next { u with pc := next, tNs := s.tNs + dur + o, env := u.env.afterOp }

/-- `s` after a halting fault or HALT with this code (rule R231): nothing but HALTED, CAUSE and EPC differs. -/
def HaltedState (s : State) (code : BitVec 4) : State :=
  { s with status := s.status ||| 0x01, cause := code, epc := s.pc }

/-- The durations of rule R265, less the overhead. -/
def nominalNs : Instr → Nat
  | .hold imm => imm.toNat * 1000000
  | .write => 850000
  | _ => 0

/-- What holds of every state a run reaches from reset, and what every step keeps. -/
structure State.Inv (s : State) : Prop where
  /-- The parameters meet rule R6. -/
  params : s.cfg.wf
  /-- ROM_LEN ≤ 65 536 (rules R26, R60). -/
  romSize : Memory.wf s.rom
  /-- LAST is TIMER_BITS wide (rule R32). -/
  timer : s.last < 2 ^ s.cfg.timerBits
  /-- STATUS bits 7:2 are never set (rule R28). -/
  reserved : s.status &&& 0xFC = 0
  /-- Once an engine is claimed the rate is 800 000 Hz and every pixel has been written (rules R30, R130; U1). -/
  driver : s.eng ≠ .unclaimed → s.rate = 800000 ∧ ∀ i : Fin 25, s.pb[i].written = true
  /-- Without an engine no frame has been sent (rules R221, R225). -/
  silent : s.eng = .unclaimed → s.wire = []
  /-- After RAND, IDX is in 0..24 (rule R24). -/
  index : s.idx.written = true → s.idx.value.toNat ≤ 24
  /-- After SGEN the sensor registers are in their ranges (rule R33). -/
  temp : s.temp10.written = true → 270 ≤ s.temp10.value.toNat ∧ s.temp10.value.toNat ≤ 299
  ph : s.ph10.written = true → 60 ≤ s.ph10.value.toNat ∧ s.ph10.value.toNat ≤ 79
  water : s.level.written = true → 95 ≤ s.level.value.toNat ∧ s.level.value.toNat ≤ 100
  /-- Frames do not overlap, each with its reset gap (rule R74), and all are over when an operation starts (rule R75). -/
  frames : s.wire.Pairwise fun f g => f.t0 + 850000 ≤ g.t0
  settled : ∀ f ∈ s.wire, f.t0 + 850000 ≤ s.tNs
  /-- DISP is in time order (rule R37). -/
  events : s.disp.Pairwise fun d e => d.time ≤ e.time
  past : ∀ e ∈ s.disp, e.time ≤ s.tNs
  /-- CAUSE and EPC are 0 until a halt (rule R29), and CAUSE is a code of rule R220. -/
  running : s.halted = false → s.cause = 0 ∧ s.epc = 0
  code : s.cause.toNat ≤ 5

end Sys2Proof.Machine
end

