-- ==== Sys2Proof/Certificates/Slice0/Obligations.lean ====
section
/-! DEFINITION. The statements for the provers, from the numbered rules of spec/. Every statement quantifies over all states, so
over every ROM, every parameter of rule R6 and every environment; a free value is never fixed. -/

open Sys2Proof

open Sys2Proof.Machine

/-! ## Encoding -/

/-- Words written out from the formats of rule R101 and the opcodes of rule R103 (vectors V-ENC) decode to what they stand for. -/
def Obligations.SampleWordsDecode : Prop :=
  decode 0x0100000003 = .ok (.init 3) ∧
  decode 0x021600FF00 = .ok (.set 22 0 255 0) ∧
  decode 0x0300FFA500 = .ok (.setx 255 165 0) ∧
  decode 0x0607000000 = .ok (.get 7) ∧
  decode 0x10000007D0 = .ok (.hold 2000) ∧
  decode 0x120100003C = .ok (.bnp 1 0x3C) ∧
  decode 0x1313880001 = .ok (.bnd 5000 1) ∧
  decode 0x1400000001 = .ok (.jmp 1) ∧
  decode 0x2200000002 = .ok (.dtext 2) ∧
  decode 0x2300000000 = .ok .drend ∧
  decode 0x0000000000 = .error (.unknownOpcode 0) ∧
  decode 0x0500000001 = .error (.mustBeZero 5) ∧
  decode 0x1202000000 = .error (.badSelector 2) ∧
  decode 0x2200000003 = .error (.badLine 3)

/-- Decoding the word of a well-formed operation gives it back, every operand at every value (rules R101 to R103). -/
def Obligations.DecodeEncodeAgree : Prop :=
  ∀ i : Instr, i.WellFormed = true → decode (encode i) = .ok i

/-- Every word has one reading: a word that decodes is the word of the operation it decodes to, which is well-formed. -/
def Obligations.EncodeDecodeAgree : Prop :=
  ∀ (w : OpWord) (i : Instr), decode w = .ok i → i.WellFormed = true ∧ encode i = w

/-- Rule R103: a word is the operation with opcode `op` iff it matches that row's mask and match (and, for DTEXT, passes
the extra check `n ≤ 2` that rule R103 names). -/
def Obligations.DecodeFollowsOpcodeMap : Prop :=
  ∀ (w : OpWord) (op : Byte),
    (∃ i, decode w = .ok i ∧ i.opcode = op) ↔
      ∃ row ∈ opTable, row.op = op ∧ w &&& row.mask = row.matchBits ∧
        (op = 0x22 → (w.extractLsb' 0 8).toNat ≤ 2)

/-- No word matches two rows of the opcode map (rule R103). -/
def Obligations.OpcodeRowsAreDisjoint : Prop :=
  ∀ (w : OpWord) (row row' : OpRow), row ∈ opTable → row' ∈ opTable →
    row.Accepts w → row'.Accepts w → row = row'

/-! ## The step -/

/-- Rule R150: in a running machine whose word at PC decodes to `i`, the step is `i`'s own rule, with nothing around it. -/
def Obligations.StepRunsDecodedInstruction : Prop :=
  ∀ (s : State) (w : OpWord) (i : Instr),
    s.status.getLsbD 0 = false → s.rom[s.pc.toNat]? = some w → decode w = .ok i → step s = exec i s

/-- Rules R27, R150, R233 (and vector V-F-7): a halted machine takes no step. That the model answers `next` with the same
state, however many steps are asked for, is the model's reading of it (notes/assumptions/1.md). -/
def Obligations.HaltedMachineStaysAsItIs : Prop :=
  ∀ (s : State) (n : Nat), s.status.getLsbD 0 = true → Host.Core.run Sys2Proof.core n s = .next s

/-- Rule R227: a running machine with PC ≥ ROM_LEN raises FetchOutOfRange, code 5, EPC the bad PC. -/
def Obligations.FetchPastRomHalts : Prop :=
  ∀ s : State, s.status.getLsbD 0 = false → s.rom.length ≤ s.pc.toNat → step s = .next (HaltedState s 5)

/-- Rules R104, R224: an illegal word raises IllegalOp, code 2, EPC its PC, and nothing of it is executed; a legal word
is executed, as the well-formed operation whose word it is. -/
def Obligations.WordsRunIfLegalAndHaltIfNot : Prop :=
  ∀ (s : State) (w : OpWord), s.status.getLsbD 0 = false → s.rom[s.pc.toNat]? = some w →
    (¬ LegalWord w → step s = .next (HaltedState s 2)) ∧
    (LegalWord w → ∃ i, i.WellFormed = true ∧ encode i = w ∧ step s = exec i s)

/-- The model's own placing of a word (notes/assumptions/15.md): the next step of a running machine runs it, and nothing
but the ROM differs. -/
def Obligations.PlacedWordIsRunNext : Prop :=
  ∀ (s : State) (w : Nat) (i : Instr), s.status.getLsbD 0 = false → decodeTableWord 40 w = some i →
    step (s.withFetchWord 40 w) = exec i (s.withFetchWord 40 w) ∧
    s.withFetchWord 40 w = { s with rom := (s.withFetchWord 40 w).rom } ∧
    (∀ a, a < s.rom.length → a ≠ s.pc.toNat → (s.withFetchWord 40 w).rom[a]? = s.rom[a]?)

/-- Rule R231: a step that halts sets HALTED, CAUSE and EPC (the PC of the word it was at) and changes nothing else, PC
included. That DOUT is low from then on (rule R67) rests on idle meaning low, which is the spec's general knowledge (GK4, D11;
notes/assumptions/26.md, PRESUMED). -/
def Obligations.HaltingStepsArePrecise : Prop :=
  ∀ s t : State, s.status.getLsbD 0 = false → step s = .next t → t.status.getLsbD 0 = true →
    t = HaltedState s t.cause ∧ (s.Inv → ∀ τ, t.tNs ≤ τ → t.dout τ = false)

/-- Rule R220: every halt has one of the listed causes, under the condition listed for it. -/
def Obligations.EveryHaltHasItsListedCause : Prop :=
  ∀ s t : State, s.status.getLsbD 0 = false → step s = .next t → t.status.getLsbD 0 = true →
    (t.cause = 5 ∧ s.rom.length ≤ s.pc.toNat) ∨
    ∃ w, s.rom[s.pc.toNat]? = some w ∧
      ((t.cause = 0 ∧ decode w = .ok .halt) ∨
       (t.cause = 1 ∧ s.eng = .unclaimed ∧ s.env.teAvail0 = false ∧ s.env.teAvail1 = false ∧
         ∃ pin, decode w = .ok (.init pin)) ∨
       (t.cause = 2 ∧ ¬ LegalWord w) ∨
       (t.cause = 3 ∧ s.eng = .unclaimed ∧ decode w = .ok .write) ∨
       (t.cause = 4 ∧ s.eng ≠ .unclaimed ∧ ∃ pin, decode w = .ok (.init pin)))

/-! ## Driver operations -/

/-- Rule R130: INIT with no engine claimed takes the primary if it is free, else the secondary, sets PIN and RATE and
blackens every pixel; with neither free it is ResourceExhaustion (1); with an engine already claimed it is ReInit (4),
whatever TE_AVAIL says. On either fault PIN, RATE and PB stay. -/
def Obligations.InitClaimsAnEngineOrHalts : Prop :=
  ∀ (s : State) (pin : Byte),
    (s.eng = .unclaimed → (s.env.teAvail0 = true ∨ s.env.teAvail1 = true) →
      ∃ pb : Vector (Reg Pixel) 25, (∀ j : Fin 25, pb[j] = ⟨⟨0, 0, 0⟩, true⟩) ∧
        CompletesWith (.init pin) s 0 (s.pc + 1)
          { s with eng := if s.env.teAvail0 then .primary else .secondary, pin := pin, rate := 800000, pb := pb }) ∧
    (s.eng = .unclaimed → s.env.teAvail0 = false → s.env.teAvail1 = false →
      exec (.init pin) s = .next (HaltedState s 1)) ∧
    (s.eng ≠ .unclaimed → exec (.init pin) s = .next (HaltedState s 4))

/-- Rule R131: SET writes exactly the pixel it names; an index above 24 writes none, sets IDXERR and goes on. -/
def Obligations.SetWritesOnePixelOrRejects : Prop :=
  ∀ (s : State) (idx r g b : Byte),
    (idx.toNat ≤ 24 →
      ∃ pb : Vector (Reg Pixel) 25,
        (∀ j : Fin 25, pb[j] = if j.val = idx.toNat then ⟨⟨r, g, b⟩, true⟩ else s.pb[j]) ∧
        CompletesWith (.set idx r g b) s 0 (s.pc + 1) { s with pb := pb }) ∧
    (24 < idx.toNat →
      CompletesWith (.set idx r g b) s 0 (s.pc + 1) { s with status := s.status ||| 0x02 })

/-- Rule R132: SETX is SET with its index from IDX, which it does not change; an IDX no RAND has written is any value. -/
def Obligations.SetxWritesThePixelAtIdx : Prop :=
  ∀ (s : State) (r g b : Byte), ∃ idx : Byte, (s.idx.written = true → idx = s.idx.value) ∧
    (idx.toNat ≤ 24 →
      ∃ pb : Vector (Reg Pixel) 25,
        (∀ j : Fin 25, pb[j] = if j.val = idx.toNat then ⟨⟨r, g, b⟩, true⟩ else s.pb[j]) ∧
        CompletesWith (.setx r g b) s 0 (s.pc + 1) { s with pb := pb }) ∧
    (24 < idx.toNat →
      CompletesWith (.setx r g b) s 0 (s.pc + 1) { s with status := s.status ||| 0x02 })

/-- Rule R133: CLEAR makes every pixel black and changes nothing else. -/
def Obligations.ClearBlackensEveryPixel : Prop :=
  ∀ s : State, ∃ pb : Vector (Reg Pixel) 25, (∀ j : Fin 25, pb[j] = ⟨⟨0, 0, 0⟩, true⟩) ∧
    CompletesWith .clear s 0 (s.pc + 1) { s with pb := pb }

/-- Rule R134 (with the byte order of rule R62): with an engine claimed, WRITE appends one frame of 75 bytes, green, red,
blue per pixel, whose first edge comes after the overhead, and ends 750 000 and 100 000 ns after that edge; the buffer is
not changed. With none claimed it raises NotInitialised (3), and no frame is sent. -/
def Obligations.WriteSendsOneFrameOrHalts : Prop :=
  ∀ s : State,
    (s.eng ≠ .unclaimed →
      ∃ o ≤ s.cfg.opMaxNs, ∃ bytes : Vector Byte 75,
        (∀ i : Fin 25, s.pb[i].written = true →
          bytes[3 * i.val]'(by omega) = s.pb[i].value.g ∧
          bytes[3 * i.val + 1]'(by omega) = s.pb[i].value.r ∧
          bytes[3 * i.val + 2]'(by omega) = s.pb[i].value.b) ∧
        exec .write s = .next { s with
          wire := s.wire ++ [⟨s.tNs + o, bytes⟩], tNs := s.tNs + o + 750000 + 100000, pc := s.pc + 1,
          env := s.env.afterOp }) ∧
    (s.eng = .unclaimed → exec .write s = .next (HaltedState s 3))

/-- Rule R135: GET copies the pixel into RDATA, red in bits 23:16; a pixel not yet written reads as any value; an index
above 24 leaves RDATA and sets IDXERR. -/
def Obligations.GetReadsThePixelOrRejects : Prop :=
  ∀ (s : State) (idx : Byte),
    (∀ h : idx.toNat < 25, ∃ p : Pixel, (s.pb[idx.toNat].written = true → p = s.pb[idx.toNat].value) ∧
      CompletesWith (.get idx) s 0 (s.pc + 1) { s with rdata := p.r ++ p.g ++ p.b }) ∧
    (24 < idx.toNat → CompletesWith (.get idx) s 0 (s.pc + 1) { s with status := s.status ||| 0x02 })

/-- Rule R70 (§8 of the document, T1): SET of a valid index, then GET of any valid index: the pixel named reads (r,g,b),
every other written pixel reads what it held. -/
def Obligations.GetAfterSetReturnsThePixel : Prop :=
  ∀ (s t u : State) (i j r g b : Byte) (hj : j.toNat < 25), i.toNat < 25 →
    exec (.set i r g b) s = .next t → exec (.get j) t = .next u →
    (j = i → u.rdata = r ++ g ++ b) ∧
    (j ≠ i → s.pb[j.toNat].written = true →
      u.rdata = s.pb[j.toNat].value.r ++ s.pb[j.toNat].value.g ++ s.pb[j.toNat].value.b)

/-- Rule R70 (T2): after CLEAR every pixel reads black. -/
def Obligations.GetAfterClearIsBlack : Prop :=
  ∀ (s t u : State) (j : Byte), j.toNat < 25 →
    exec .clear s = .next t → exec (.get j) t = .next u → u.rdata = 0

/-- Rule R61, the frame-byte view: bytes 3i, 3i + 1, 3i + 2 are the green, red and blue of pixel i, a 3-byte read there is
`{g, r, b}`, a 3-byte write of `{g, r, b}` there makes pixel i (r,g,b) and touches no other; what a 3-byte write leaves is read
back, and the bytes outside it read as before; addresses past the view, and 3-byte addresses that are no multiple of 3, have
no access. (A read of a pixel not yet written is any value, notes/assumptions/9.md, so the reads are stated of written
pixels.) -/
def Obligations.FrameByteViewReadsWhatWasWritten : Prop :=
  (∀ (s : State) (i : Fin 25), s.pb[i].written = true →
    s.memRead1 (3 * i.val) = some s.pb[i].value.g ∧
    s.memRead1 (3 * i.val + 1) = some s.pb[i].value.r ∧
    s.memRead1 (3 * i.val + 2) = some s.pb[i].value.b ∧
    s.memRead3 (3 * i.val) = some (s.pb[i].value.g ++ s.pb[i].value.r ++ s.pb[i].value.b)) ∧
  (∀ (s : State) (i : Fin 25) (g r b : Byte),
    ∃ pb : Vector (Reg Pixel) 25, (∀ j : Fin 25, pb[j] = if j = i then ⟨⟨r, g, b⟩, true⟩ else s.pb[j]) ∧
      s.memWrite3 (3 * i.val) (g ++ r ++ b) = some { s with pb := pb }) ∧
  (∀ (s : State) (k : Nat), 75 ≤ k → s.memRead1 k = none) ∧
  ∀ (s : State) (a : Nat) (v : BitVec 24),
    (¬ (a % 3 = 0 ∧ a + 3 ≤ 75) → s.memWrite3 a v = none ∧ s.memRead3 a = none) ∧
    (a % 3 = 0 → a + 3 ≤ 75 → ∃ t, s.memWrite3 a v = some t ∧ t = { s with pb := t.pb } ∧
      t.memRead3 a = some v ∧
      ∀ k, k < 75 → (k < a ∨ a + 3 ≤ k) → t.memRead1 k = s.memRead1 k)

/-! ## Sequencing operations -/

/-- Rule R151: HOLD takes `imm` milliseconds and its overhead, never less, and (rule R6's bound on OP_MAX_NS) less than one
millisecond more; nothing but T_NS and PC changes. -/
def Obligations.HoldWaitsItsMilliseconds : Prop :=
  ∀ (s : State) (imm : BitVec 32), CompletesWith (.hold imm) s (imm.toNat * 1000000) (s.pc + 1) s ∧
    ∀ t, s.cfg.wf → exec (.hold imm) s = .next t →
      s.tNs + imm.toNat * 1000000 ≤ t.tNs ∧ t.tNs < s.tNs + (imm.toNat + 1) * 1000000

/-- Rule R152: RAND puts some index of 0..24 in IDX, and changes nothing else but the model's own queue of draws
(notes/assumptions/4.md). -/
def Obligations.RandDrawsAnIndex : Prop :=
  ∀ s : State, ∃ (v : Byte) (q : List Nat), v.toNat ≤ 24 ∧
    CompletesWith .rand s 0 (s.pc + 1) { s with idx := ⟨v, true⟩, env := { s.env with indices := q } }

/-- Rule R153: BNP takes one sample of the selected pin at the start: high (not pressed) branches, low falls through. -/
def Obligations.BnpBranchesWhenNotPressed : Prop :=
  ∀ (s : State) (sel : Byte) (target : PcWord), (Instr.bnp sel target).WellFormed = true →
    CompletesWith (.bnp sel target) s 0
      (if levelAt (if sel = 0 then s.env.btnA else s.env.btnB) s.tNs = true then target else s.pc + 1) s

/-- Rules R154, R31: BND branches iff the modular difference of NOW_MS and LAST is less than `ms`. -/
def Obligations.BndBranchesWhenNotDue : Prop :=
  ∀ (s : State) (ms : BitVec 16) (target : PcWord),
    CompletesWith (.bnd ms target) s 0
      (if (s.tNs / 1000000 % 2 ^ s.cfg.timerBits + 2 ^ s.cfg.timerBits - s.last) % 2 ^ s.cfg.timerBits < ms.toNat
        then target else s.pc + 1) s

/-- Rule R158 (4): when LAST ≤ NOW_MS and no wrap has occurred, the elapsed time is the plain difference: the refresh is
taken as due iff at least `ms` milliseconds of NOW_MS have passed. -/
def Obligations.ElapsedTimeIsPlainBeforeTheWrap : Prop :=
  ∀ (s t : State) (ms : BitVec 16) (target : PcWord), target ≠ s.pc + 1 →
    s.tNs / 1000000 < 2 ^ s.cfg.timerBits → s.last ≤ s.tNs / 1000000 →
    exec (.bnd ms target) s = .next t →
    (t.pc = s.pc + 1 ↔ s.last + ms.toNat ≤ s.tNs / 1000000)

/-- Rule R193 (and conflict C15): a refresh check that finds 5000 ms passed since a TSTAMP comes more than 4999 ms of T_NS
after that TSTAMP started. -/
def Obligations.RefreshChecksAreSpaced : Prop :=
  ∀ (s u v : State) (target : PcWord), u.cfg = s.cfg → u.last = s.tNs / 1000000 % 2 ^ s.cfg.timerBits →
    s.tNs ≤ u.tNs → u.tNs / 1000000 < 2 ^ s.cfg.timerBits → target ≠ u.pc + 1 →
    exec (.bnd 5000 target) u = .next v → v.pc = u.pc + 1 → s.tNs + 4999000000 < u.tNs

/-- Rule R155: JMP goes to its target, checked or not, and changes nothing else. -/
def Obligations.JmpGoesToItsTarget : Prop :=
  ∀ (s : State) (target : PcWord), CompletesWith (.jmp target) s 0 target s

/-- Rules R156, R31: TSTAMP stores NOW_MS as it is when TSTAMP starts. -/
def Obligations.TstampStoresNowMs : Prop :=
  ∀ s : State,
    CompletesWith .tstamp s 0 (s.pc + 1) { s with last := s.tNs / 1000000 % 2 ^ s.cfg.timerBits }

/-- Rule R157: HALT sets HALTED with CAUSE 0 and EPC its PC; PC stays, no time passes, nothing else changes. -/
def Obligations.HaltStopsForGood : Prop :=
  ∀ s : State, exec .halt s = .next (HaltedState s 0)

/-! ## Refresh operations -/

/-- Rules R170, R173: DCLR and DREND each append one event with the start time. -/
def Obligations.DclrAndDrendSendTheirEvent : Prop :=
  ∀ s : State,
    CompletesWith .dclr s 0 (s.pc + 1) { s with disp := s.disp ++ [.clear3 s.tNs] } ∧
    CompletesWith .drend s 0 (s.pc + 1) { s with disp := s.disp ++ [.render s.tNs] }

/-- Rule R171: SGEN puts some value of each range in TEMP10, PH10 and LEVEL, and changes nothing else but the model's own
queue of draws (notes/assumptions/4.md). -/
def Obligations.SgenDrawsTheSensorValues : Prop :=
  ∀ s : State, ∃ (tp : BitVec 16) (ph lv : Byte) (q : List SensorDraw),
    (270 ≤ tp.toNat ∧ tp.toNat ≤ 299) ∧ (60 ≤ ph.toNat ∧ ph.toNat ≤ 79) ∧ (95 ≤ lv.toNat ∧ lv.toNat ≤ 100) ∧
    CompletesWith .sgen s 0 (s.pc + 1)
      { s with temp10 := ⟨tp, true⟩, ph10 := ⟨ph, true⟩, level := ⟨lv, true⟩, env := { s.env with sensors := q } }

/-- Rules R8, R152, R171: no value of a range is ruled out. For every index in 0..24, and every triple in SGEN's three
ranges, there is an environment, differing only in the draws it supplies, in which that draw is taken.
The queue of draws is the model's own device (notes/assumptions/4.md). -/
def Obligations.EveryDrawCanOccur : Prop :=
  ∀ s : State,
    (∀ v : Nat, v ≤ 24 → ∃ (q : List Nat) (t : State),
      exec .rand { s with env := { s.env with indices := q } } = .next t ∧ t.idx.value.toNat = v) ∧
    (∀ tp ph lv : Nat, 270 ≤ tp → tp ≤ 299 → 60 ≤ ph → ph ≤ 79 → 95 ≤ lv → lv ≤ 100 →
      ∃ (q : List SensorDraw) (t : State), exec .sgen { s with env := { s.env with sensors := q } } = .next t ∧
        t.temp10.value.toNat = tp ∧ t.ph10.value.toNat = ph ∧ t.level.value.toNat = lv) ∧
    (∀ o : Nat, o ≤ s.cfg.opMaxNs → ∃ (q : List Nat) (t : State),
      exec (.hold 0) { s with env := { s.env with overheads := q } } = .next t ∧ t.tNs = s.tNs + o)

/-- Rule R172: DTEXT n appends Text(t_start, n, value) with TEMP10, PH10 or LEVEL for line 0, 1, 2; a register no SGEN has
written reads as any value of its width. -/
def Obligations.DtextSendsTheLineValue : Prop :=
  ∀ (s : State) (n : Byte), (Instr.dtext n).WellFormed = true →
    ∃ v : Nat,
      (n = 0 → v < 65536 ∧ (s.temp10.written = true → v = s.temp10.value.toNat)) ∧
      (n = 1 → v < 256 ∧ (s.ph10.written = true → v = s.ph10.value.toNat)) ∧
      (n = 2 → v < 256 ∧ (s.level.written = true → v = s.level.value.toNat)) ∧
      CompletesWith (.dtext n) s 0 (s.pc + 1) { s with disp := s.disp ++ [.text s.tNs n.toNat v] }

/-- Rule R174: the refresh is an independent branch: no refresh operation touches PB, LAST, WIRE or STATUS, nor the level
of DOUT at any instant. -/
def Obligations.RefreshOperationsTouchNeitherBufferNorWire : Prop :=
  ∀ (i : Instr) (s t : State), i = .dclr ∨ i = .sgen ∨ (∃ n, i = .dtext n) ∨ i = .drend →
    exec i s = .next t →
    t.pb = s.pb ∧ t.last = s.last ∧ t.wire = s.wire ∧ t.status = s.status ∧ t.eng = s.eng ∧
      (∀ τ, t.dout τ = s.dout τ)

/-! ## Whole-machine rules -/

/-- Rules R41, R250: the values the spec gives at the release of reset, for every ROM, parameter set and environment.
Three clauses rest on the model's log: that DOUT is low, on idle meaning low (GK4, D11; notes/assumptions/26.md, PRESUMED); that
an empty edge list reads 1, on the model's way of saying that nothing drives a pin (notes/assumptions/2.md and 8.md); that a
register the spec leaves unspecified is marked unwritten, on the model's own mark (notes/assumptions/9.md to 11.md).
(Nothing is said of the zeros the model keeps in those registers, nor of PIN, RATE and RDATA.) -/
def Obligations.ResetLeavesTheListedValues : Prop :=
  ∀ (cfg : Config) (rom : List OpWord) (env : Env),
    let s := State.resetWith cfg rom env
    s.pc = 0 ∧ s.status = 0 ∧ s.cause = 0 ∧ s.epc = 0 ∧ s.eng = .unclaimed ∧ s.last = 0 ∧ s.tNs = 0 ∧
    s.nowMs = 0 ∧ s.wire = [] ∧ s.disp = [] ∧ (∀ τ, s.dout τ = false) ∧
    (∀ i : Fin 25, s.pb[i].written = false) ∧ s.idx.written = false ∧
    s.temp10.written = false ∧ s.ph10.written = false ∧ s.level.written = false ∧
    (∀ τ, env.btnA = [] → levelAt s.env.btnA τ = true) ∧ (∀ τ, env.btnB = [] → levelAt s.env.btnB τ = true) ∧
    s.rom = rom ∧ s.cfg = cfg ∧ s.env = env

/-- Rule R233: no step leaves the halted state; reset does, and restarts from word 0 with nothing kept but the ROM and the
parameters (the form of the reset operation is the model's, notes/assumptions/22.md). -/
def Obligations.OnlyResetLeavesTheHaltedState : Prop :=
  (∀ s t : State, s.status.getLsbD 0 = true → step s = .next t → t.status.getLsbD 0 = true) ∧
  (∀ (s : State) (env : Env), s.assertReset env = State.resetWith s.cfg s.rom env ∧
    (s.assertReset env).status.getLsbD 0 = false ∧ (s.assertReset env).pc = 0)

/-- The invariant holds after reset, for every ROM of at most 65 536 words, every legal parameter set and every
environment, and so of State.reset itself. -/
def Obligations.InvariantHoldsAfterReset : Prop :=
  (∀ (cfg : Config) (rom : List OpWord) (env : Env), cfg.wf → Memory.wf rom → (State.resetWith cfg rom env).Inv) ∧
  State.reset.Inv

/-- Every step from every state that meets the invariant keeps it: among others that frames never overlap and carry their
reset gap (rule R74), that IDX and the sensor values stay in range (rules R24, R33), that LAST fits its width (rule R32),
that reserved STATUS bits stay 0 (rule R28) and that a claimed driver has its rate and a written buffer (rule R30). -/
def Obligations.EveryStepKeepsTheInvariant : Prop :=
  ∀ s t : State, s.Inv → step s = .next t → t.Inv

/-- Rules R66, R74: along any run from a state that meets the invariant, consecutive frames start at least 850 000 ns
apart, and DOUT is low for at least T_RESET_MIN (80 µs) after the last cell of every frame.
That the gap is low on DOUT rests on idle meaning low (GK4, D11; notes/assumptions/26.md, PRESUMED); that it starts at the end of
the last cell is the spec's own decision D12, which N4 warns of for the real wire. -/
def Obligations.FramesAreSequentialWithTheirGap : Prop :=
  ∀ (s t : State) (n : Nat), s.Inv → Host.Core.run Sys2Proof.core n s = .next t →
    t.wire.Pairwise (fun f g => f.t0 + 850000 ≤ g.t0) ∧
    ∀ f ∈ t.wire, ∀ τ, f.t0 + 750000 ≤ τ → τ < f.t0 + 750000 + 80000 → t.dout τ = false

/-- Rules R63, R64, R65: inside a frame, in the cell of bit `n` (byte `n div 8`, bit 7 first if MSB_FIRST, else bit 0
first), DOUT is high for the first T1H_NS or T0H_NS nanoseconds, as the bit is 1 or 0, and low for the rest.
That a bit is such a pulse is the spec's general knowledge (GK1 to GK3; notes/assumptions/26.md). -/
def Obligations.BitCellsHaveTheirPulse : Prop :=
  ∀ (s : State) (f : Frame) (n d : Nat) (h : n < 600), s.Inv → f ∈ s.wire → d < 1250 →
    let byte := f.bytes[n / 8]'(by omega)
    let v := if s.cfg.msbFirst then byte.getLsbD (7 - n % 8) else byte.getLsbD (n % 8)
    (s.dout (f.t0 + 1250 * n + d) = true ↔ d < if v then s.cfg.t1hNs else s.cfg.t0hNs)

/-- Rule R67: DOUT is low whenever no frame's bit cells are in progress (so before the first frame, in every gap and
between frames), and from the end of the last operation on (so for ever after a halt).
That idle means low is the spec's general knowledge (GK4; notes/assumptions/26.md). -/
def Obligations.DoutIsLowOutsideFrames : Prop :=
  ∀ (s : State) (τ : Nat),
    ((∀ f ∈ s.wire, τ < f.t0 ∨ f.t0 + 750000 ≤ τ) → s.dout τ = false) ∧
    (s.Inv → s.tNs ≤ τ → s.dout τ = false)

/-- Rule R75: a step adds at most one frame, which is a snapshot of the whole buffer as it stands before and after that
step, begun at or after its start and over, gap and all, when it ends. -/
def Obligations.EveryFrameIsAWholeBufferSnapshot : Prop :=
  ∀ s t : State, s.Inv → step s = .next t →
    t.wire = s.wire ∨
    ∃ f : Frame, t.wire = s.wire ++ [f] ∧ t.pb = s.pb ∧ s.tNs ≤ f.t0 ∧ f.t0 + 850000 = t.tNs ∧
      ∀ i : Fin 25,
        f.bytes[3 * i.val]'(by omega) = s.pb[i].value.g ∧
        f.bytes[3 * i.val + 1]'(by omega) = s.pb[i].value.r ∧
        f.bytes[3 * i.val + 2]'(by omega) = s.pb[i].value.b

/-- Rule R20, column `written by` (rules R21, R24, R25, R30, R32, R33, R36, R37, R78): each register and history is changed
only by the operations the table lists; the ROM, the parameters, the buttons and TE_AVAIL by none. -/
def Obligations.RegistersChangeOnlyByTheirWriters : Prop :=
  ∀ (i : Instr) (s t : State), exec i s = .next t →
    (t.pb ≠ s.pb → (∃ p, i = .init p) ∨ (∃ x r g b, i = .set x r g b) ∨ (∃ r g b, i = .setx r g b) ∨ i = .clear) ∧
    (t.eng ≠ s.eng → ∃ p, i = .init p) ∧ (t.pin ≠ s.pin → ∃ p, i = .init p) ∧
    (t.rate ≠ s.rate → ∃ p, i = .init p) ∧
    (t.idx ≠ s.idx → i = .rand) ∧ (t.rdata ≠ s.rdata → ∃ x, i = .get x) ∧ (t.last ≠ s.last → i = .tstamp) ∧
    (t.temp10 ≠ s.temp10 → i = .sgen) ∧ (t.ph10 ≠ s.ph10 → i = .sgen) ∧ (t.level ≠ s.level → i = .sgen) ∧
    (t.wire ≠ s.wire → i = .write) ∧ (t.disp ≠ s.disp → i = .dclr ∨ (∃ n, i = .dtext n) ∨ i = .drend) ∧
    t.rom = s.rom ∧ t.cfg = s.cfg ∧ t.env.btnA = s.env.btnA ∧ t.env.btnB = s.env.btnB ∧
    t.env.teAvail0 = s.env.teAvail0 ∧ t.env.teAvail1 = s.env.teAvail1

/-- Rules R28, R232: HALTED and IDXERR are sticky: no step clears them; STATUS bits 7:2 are written by none; and CAUSE and
EPC are written only by the step that halts (rule R29). -/
def Obligations.StatusBitsAreSticky : Prop :=
  ∀ s t : State, step s = .next t →
    (s.status.getLsbD 0 = true → t.status.getLsbD 0 = true) ∧
    (s.status.getLsbD 1 = true → t.status.getLsbD 1 = true) ∧
    (∀ k, 2 ≤ k → t.status.getLsbD k = s.status.getLsbD k) ∧
    (t.cause ≠ s.cause ∨ t.epc ≠ s.epc → s.status.getLsbD 0 = false ∧ t.status.getLsbD 0 = true)

/-- Rules R9, R36, R37, R78: along any run T_NS never decreases, WIRE and DISP only grow at their end, and the ROM stays. -/
def Obligations.TimeAndHistoriesOnlyGrow : Prop :=
  ∀ (s t : State) (n : Nat), Host.Core.run Sys2Proof.core n s = .next t →
    s.tNs ≤ t.tNs ∧ (∃ more, t.wire = s.wire ++ more) ∧ (∃ more, t.disp = s.disp ++ more) ∧
      t.rom = s.rom ∧ t.cfg = s.cfg

/-- Rules R9, R265: an operation that does not halt the machine takes its listed duration and an overhead in 0..OP_MAX_NS;
one that halts it takes no time. -/
def Obligations.OperationsTakeTheirDuration : Prop :=
  ∀ (i : Instr) (s t : State), s.status.getLsbD 0 = false → exec i s = .next t →
    (t.status.getLsbD 0 = false → ∃ o ≤ s.cfg.opMaxNs, t.tNs = s.tNs + nominalNs i + o) ∧
    (t.status.getLsbD 0 = true → t.tNs = s.tNs)

/-- Rule R26: an operation ends at PC + 1 unless it branches to its target or halts, and then PC stays. -/
def Obligations.PcAdvancesBranchesOrStays : Prop :=
  ∀ (i : Instr) (s t : State), s.status.getLsbD 0 = false → exec i s = .next t →
    (t.status.getLsbD 0 = true ∧ t.pc = s.pc) ∨
    (t.status.getLsbD 0 = false ∧ (t.pc = s.pc + 1 ∨
      (i = .jmp t.pc ∨ (∃ sel, i = .bnp sel t.pc) ∨ ∃ ms, i = .bnd ms t.pc)))

/-- Rules R81, R34, R256: a button counts only at the instant of a poll: two schedules of the pins that agree at the start of
a step give the same step. -/
def Obligations.ButtonsAreSampledOnlyAtTheStart : Prop :=
  ∀ (s t : State) (a b : List Edge),
    levelAt a s.tNs = levelAt s.env.btnA s.tNs → levelAt b s.tNs = levelAt s.env.btnB s.tNs →
    step s = .next t →
    step { s with env := { s.env with btnA := a, btnB := b } } =
      .next { t with env := { t.env with btnA := a, btnB := b } }

/-- Rules R25, R29, R30: PIN, RATE, RDATA, CAUSE and EPC are for an observer: no step depends on what they hold.
For RATE the spec is not of one voice: rule R20's table lists it as read by WRITE, and the model follows rules R30 and R134
(notes/assumptions/13.md, DEDUCED). -/
def Obligations.ObserverRegistersAreNeverRead : Prop :=
  ∀ (s t : State) (pin : Byte) (rate : Nat) (rdata : BitVec 24) (cause : BitVec 4) (epc : PcWord),
    step s = .next t →
    ∃ (pin' : Byte) (rate' : Nat) (rdata' : BitVec 24) (cause' : BitVec 4) (epc' : PcWord),
      step { s with pin := pin, rate := rate, rdata := rdata, cause := cause, epc := epc } =
        .next { t with pin := pin', rate := rate', rdata := rdata', cause := cause', epc := epc' }

/-- Rules R255, R70, R62: a SET puts nothing on DOUT, and the next WRITE carries the
pixel it set, green, red, blue. -/
def Obligations.WriteAfterSetCarriesThePixel : Prop :=
  ∀ (s t u : State) (idx r g b : Byte) (h : idx.toNat < 25), s.eng ≠ .unclaimed →
    exec (.set idx r g b) s = .next t → exec .write t = .next u →
    t.wire = s.wire ∧ ∃ f : Frame, u.wire = s.wire ++ [f] ∧
      f.bytes[3 * idx.toNat]'(by omega) = g ∧ f.bytes[3 * idx.toNat + 1]'(by omega) = r ∧
      f.bytes[3 * idx.toNat + 2]'(by omega) = b

/-! ## The shipped ROM, as the hardware's own contents -/

/-- Rule R185: the 69 words of the shipped ROM are the words of the operations listed beside them, for every LED_PIN, and the
ROM at State.reset is the shipped one for its own LED_PIN (that State.reset holds it is notes/assumptions/15.md; which pin that is
is notes/assumptions/6.md, and nothing is said of it). -/
def Obligations.ShippedRomHoldsItsListing : Prop :=
  (∀ pin : Byte, (shippedRom pin).length = 69 ∧ (shippedListing pin).map encode = shippedRom pin ∧
    (shippedRom pin).map decode = (shippedListing pin).map .ok) ∧
  State.reset.rom = shippedRom State.reset.cfg.ledPin
end

