-- ==== Sys2Proof/Laws/Decode.lean ====
section
/-! SUPPORT. The fields of a word built from its parts, and a word rebuilt from its fields: what the round trips rest on. -/

namespace Sys2Proof

/-! Bits of the concatenations the formats use, at their own widths. -/

theorem mkWord_bit (op : Byte) (x : BitVec 32) (i : Nat) :
    (mkWord op x).getLsbD i = if i < 32 then x.getLsbD i else op.getLsbD (i - 32) :=
  BitVec.getLsbD_append

theorem halves_bit (m t : BitVec 16) (i : Nat) :
    (m ++ t : BitVec 32).getLsbD i = if i < 16 then t.getLsbD i else m.getLsbD (i - 16) :=
  BitVec.getLsbD_append

theorem bytes2_bit (a b : Byte) (i : Nat) :
    (a ++ b : BitVec 16).getLsbD i = if i < 8 then b.getLsbD i else a.getLsbD (i - 8) :=
  BitVec.getLsbD_append

theorem bytes3_bit (a b c : Byte) (i : Nat) :
    (a ++ b ++ c : BitVec 24).getLsbD i =
      if i < 8 then c.getLsbD i else (a ++ b : BitVec 16).getLsbD (i - 8) :=
  BitVec.getLsbD_append

theorem bytes4_bit (a b c d : Byte) (i : Nat) :
    (a ++ b ++ c ++ d : BitVec 32).getLsbD i =
      if i < 8 then d.getLsbD i else (a ++ b ++ c : BitVec 24).getLsbD (i - 8) :=
  BitVec.getLsbD_append

theorem lowByte_bit (z : BitVec 24) (n : Byte) (i : Nat) :
    (z ++ n : BitVec 32).getLsbD i = if i < 8 then n.getLsbD i else z.getLsbD (i - 8) :=
  BitVec.getLsbD_append

theorem highByte_bit (a : Byte) (z : BitVec 24) (i : Nat) :
    (a ++ z : BitVec 32).getLsbD i = if i < 24 then z.getLsbD i else a.getLsbD (i - 24) :=
  BitVec.getLsbD_append

theorem branch_bit (a b : Byte) (t : PcWord) (i : Nat) :
    (a ++ b ++ t : BitVec 32).getLsbD i = if i < 16 then t.getLsbD i else (a ++ b : BitVec 16).getLsbD (i - 16) :=
  BitVec.getLsbD_append

/-! Opcode and operand bits. -/

@[simp] theorem opOf_mkWord (op : Byte) (x : BitVec 32) : opOf (mkWord op x) = op := by
  apply BitVec.eq_of_getLsbD_eq
  intro i hi
  simp [opOf, mkWord_bit, hi]

@[simp] theorem restOf_mkWord (op : Byte) (x : BitVec 32) : restOf (mkWord op x) = x := by
  apply BitVec.eq_of_getLsbD_eq
  intro i hi
  simp [restOf, mkWord_bit, hi]

/-- A word is its opcode and its operand bits. -/
theorem mkWord_fields (w : OpWord) : mkWord (opOf w) (restOf w) = w := by
  apply BitVec.eq_of_getLsbD_eq
  intro i hi
  rw [mkWord_bit]
  split
  · simp [restOf, *]
  · have h8 : i - 32 < 8 := by omega
    have hs : 32 + (i - 32) = i := by omega
    simp [opOf, h8, hs]

/-! The four bytes of format P. -/

@[simp] theorem fieldA_bytes (a b c d : Byte) : fieldA (a ++ b ++ c ++ d) = a := by
  apply BitVec.eq_of_getLsbD_eq
  intro i hi
  have h : ¬ 24 + i < 8 ∧ ¬ 24 + i - 8 < 8 ∧ ¬ 24 + i - 8 - 8 < 8 ∧ 24 + i - 8 - 8 - 8 = i := by omega
  simp only [fieldA, BitVec.getLsbD_extractLsb', bytes4_bit, bytes3_bit, bytes2_bit, h, hi, if_false,
    decide_true, Bool.true_and]

@[simp] theorem fieldB_bytes (a b c d : Byte) : fieldB (a ++ b ++ c ++ d) = b := by
  apply BitVec.eq_of_getLsbD_eq
  intro i hi
  have h : ¬ 16 + i < 8 ∧ ¬ 16 + i - 8 < 8 ∧ 16 + i - 8 - 8 = i := by omega
  simp only [fieldB, BitVec.getLsbD_extractLsb', bytes4_bit, bytes3_bit, bytes2_bit, h, hi, if_false, if_true,
    decide_true, Bool.true_and]

@[simp] theorem fieldC_bytes (a b c d : Byte) : fieldC (a ++ b ++ c ++ d) = c := by
  apply BitVec.eq_of_getLsbD_eq
  intro i hi
  have h : ¬ 8 + i < 8 ∧ 8 + i - 8 = i := by omega
  simp only [fieldC, BitVec.getLsbD_extractLsb', bytes4_bit, bytes3_bit, h, hi, if_false, if_true,
    decide_true, Bool.true_and]

@[simp] theorem fieldD_bytes (a b c d : Byte) : fieldD (a ++ b ++ c ++ d) = d := by
  apply BitVec.eq_of_getLsbD_eq
  intro i hi
  simp only [fieldD, BitVec.getLsbD_extractLsb', bytes4_bit, Nat.zero_add, hi, if_true, decide_true, Bool.true_and]

/-- The operand bits are the four bytes of format P. -/
theorem bytes_fields (x : BitVec 32) : fieldA x ++ fieldB x ++ fieldC x ++ fieldD x = x := by
  apply BitVec.eq_of_getLsbD_eq
  intro i hi
  simp only [bytes4_bit, bytes3_bit, bytes2_bit, fieldA, fieldB, fieldC, fieldD, BitVec.getLsbD_extractLsb']
  have h8 : ¬ i < 8 → 8 + (i - 8) = i := by omega
  have h16 : ¬ i < 8 → ¬ i - 8 < 8 → 16 + (i - 8 - 8) = i := by omega
  have h24 : ¬ i < 8 → ¬ i - 8 < 8 → ¬ i - 8 - 8 < 8 → 24 + (i - 8 - 8 - 8) = i ∧ i - 8 - 8 - 8 < 8 := by omega
  split
  · simp [*]
  · split
    · simp [*]
    · split
      · simp [*]
      · obtain ⟨h1, h2⟩ := h24 ‹_› ‹_› ‹_›
        simp [h1, h2]

/-! The two halves of formats T and B. -/

@[simp] theorem fieldMs_halves (m t : BitVec 16) : fieldMs (m ++ t) = m := by
  apply BitVec.eq_of_getLsbD_eq
  intro i hi
  have h : ¬ 16 + i < 16 ∧ 16 + i - 16 = i := by omega
  simp only [fieldMs, BitVec.getLsbD_extractLsb', halves_bit, h, hi, if_false, decide_true, Bool.true_and]

@[simp] theorem fieldTarget_halves (m t : BitVec 16) : fieldTarget (m ++ t) = t := by
  apply BitVec.eq_of_getLsbD_eq
  intro i hi
  simp only [fieldTarget, BitVec.getLsbD_extractLsb', halves_bit, Nat.zero_add, hi, if_true, decide_true,
    Bool.true_and]

theorem halves_fields (x : BitVec 32) : fieldMs x ++ fieldTarget x = x := by
  apply BitVec.eq_of_getLsbD_eq
  intro i hi
  rw [halves_bit]
  split
  · simp [fieldTarget, *]
  · have h1 : 16 + (i - 16) = i := by omega
    have h2 : i - 16 < 16 := by omega
    simp [fieldMs, h1, h2]

/-- The high half, of bytes `a` and `b`, and a target: format B. -/
@[simp] theorem fieldA_branch (a b : Byte) (t : PcWord) : fieldA (a ++ b ++ t) = a := by
  apply BitVec.eq_of_getLsbD_eq
  intro i hi
  have h : ¬ 24 + i < 16 ∧ ¬ 24 + i - 16 < 8 ∧ 24 + i - 16 - 8 = i := by omega
  simp only [fieldA, BitVec.getLsbD_extractLsb', branch_bit, bytes2_bit, h, hi, if_false, decide_true, Bool.true_and]

@[simp] theorem fieldB_branch (a b : Byte) (t : PcWord) : fieldB (a ++ b ++ t) = b := by
  apply BitVec.eq_of_getLsbD_eq
  intro i hi
  have h : ¬ 16 + i < 16 ∧ 16 + i - 16 < 8 ∧ 16 + i - 16 = i := by omega
  simp only [fieldB, BitVec.getLsbD_extractLsb', branch_bit, bytes2_bit, h, hi, if_false, if_true, decide_true,
    Bool.true_and]

@[simp] theorem fieldTarget_branch (a b : Byte) (t : PcWord) : fieldTarget (a ++ b ++ t) = t := by
  apply BitVec.eq_of_getLsbD_eq
  intro i hi
  simp only [fieldTarget, BitVec.getLsbD_extractLsb', branch_bit, Nat.zero_add, hi, if_true, decide_true,
    Bool.true_and]

theorem fieldMs_bytes (x : BitVec 32) : fieldA x ++ fieldB x = fieldMs x := by
  apply BitVec.eq_of_getLsbD_eq
  intro i hi
  rw [bytes2_bit]
  split
  · simp only [fieldB, fieldMs, BitVec.getLsbD_extractLsb', *, decide_true, Bool.true_and]
  · have h1 : 24 + (i - 8) = 16 + i := by omega
    have h2 : i - 8 < 8 := by omega
    simp only [fieldA, fieldMs, BitVec.getLsbD_extractLsb', h1, h2, hi, decide_true, Bool.true_and]

/-! A byte beside 24 bits: formats N and P with MBZ fields. -/

@[simp] theorem fieldD_lowByte (z : BitVec 24) (n : Byte) : fieldD (z ++ n) = n := by
  apply BitVec.eq_of_getLsbD_eq
  intro i hi
  simp only [fieldD, BitVec.getLsbD_extractLsb', lowByte_bit, Nat.zero_add, hi, if_true, decide_true, Bool.true_and]

@[simp] theorem upper_lowByte (z : BitVec 24) (n : Byte) : (z ++ n : BitVec 32).extractLsb' 8 24 = z := by
  apply BitVec.eq_of_getLsbD_eq
  intro i hi
  have h : ¬ 8 + i < 8 ∧ 8 + i - 8 = i := by omega
  simp only [BitVec.getLsbD_extractLsb', lowByte_bit, h, hi, if_false, decide_true, Bool.true_and]

theorem lowByte_fields (x : BitVec 32) : x.extractLsb' 8 24 ++ fieldD x = x := by
  apply BitVec.eq_of_getLsbD_eq
  intro i hi
  rw [lowByte_bit]
  split
  · simp [fieldD, *]
  · have h1 : 8 + (i - 8) = i := by omega
    have h2 : i - 8 < 24 := by omega
    simp [h1, h2]

@[simp] theorem fieldA_highByte (a : Byte) (z : BitVec 24) : fieldA (a ++ z) = a := by
  apply BitVec.eq_of_getLsbD_eq
  intro i hi
  have h : ¬ 24 + i < 24 ∧ 24 + i - 24 = i := by omega
  simp only [fieldA, BitVec.getLsbD_extractLsb', highByte_bit, h, hi, if_false, decide_true, Bool.true_and]

@[simp] theorem lower_highByte (a : Byte) (z : BitVec 24) : (a ++ z : BitVec 32).extractLsb' 0 24 = z := by
  apply BitVec.eq_of_getLsbD_eq
  intro i hi
  simp only [BitVec.getLsbD_extractLsb', highByte_bit, Nat.zero_add, hi, if_true, decide_true, Bool.true_and]

theorem highByte_fields (x : BitVec 32) : fieldA x ++ x.extractLsb' 0 24 = x := by
  apply BitVec.eq_of_getLsbD_eq
  intro i hi
  rw [highByte_bit]
  split
  · simp [*]
  · have h1 : 24 + (i - 24) = i := by omega
    have h2 : i - 24 < 8 := by omega
    simp [fieldA, h1, h2]

/-! What a checked field decodes to. -/

theorem whenZero_ok {mbz : Bool} {op : Byte} {i j : Instr} (h : whenZero mbz op i = .ok j) :
    mbz = true ∧ i = j := by
  unfold whenZero at h
  split at h
  · exact ⟨‹_›, by simpa using h⟩
  · simp at h

@[simp] theorem whenZero_true (op : Byte) (i : Instr) : whenZero true op i = .ok i := rfl

theorem decodeBnp_ok {x : BitVec 32} {i : Instr} (h : decodeBnp x = .ok i) :
    i = .bnp (fieldA x) (fieldTarget x) ∧ (fieldA x).toNat ≤ 1 ∧ fieldB x = 0 := by
  unfold decodeBnp at h
  split at h
  · obtain ⟨hz, rfl⟩ := whenZero_ok h
    exact ⟨rfl, ‹_›, by simpa using hz⟩
  · cases h

theorem decodeDtext_ok {x : BitVec 32} {i : Instr} (h : decodeDtext x = .ok i) :
    i = .dtext (fieldD x) ∧ (fieldD x).toNat ≤ 2 ∧ x.extractLsb' 8 24 = 0 := by
  unfold decodeDtext at h
  split at h
  · split at h
    · cases h
      exact ⟨rfl, ‹_›, ‹_›⟩
    · cases h
  · cases h

/-- A word is an operation's if its opcode and its operand bits are. -/
theorem encode_eq_of_fields {w : OpWord} {i : Instr} (hop : i.opcode = opOf w) (hx : i.operandBits = restOf w) :
    encode i = w := by
  rw [encode, hop, hx, mkWord_fields]

/-- A field of the operand bits is that field of the word. -/
theorem restOf_extract (w : OpWord) (a n : Nat) (h : a + n ≤ 32) :
    (restOf w).extractLsb' a n = w.extractLsb' a n := by
  apply BitVec.eq_of_getLsbD_eq
  intro i hi
  have : a + i < 32 := by omega
  simp [restOf, hi, this]

/-! Masking a word (rule R103) acts on its opcode and on each field alone. -/

theorem mkWord_and (a c : Byte) (x y : BitVec 32) : mkWord a x &&& mkWord c y = mkWord (a &&& c) (x &&& y) := by
  apply BitVec.eq_of_getLsbD_eq
  intro i _
  simp only [BitVec.getLsbD_and, mkWord_bit]
  split <;> simp

theorem mkWord_inj {a c : Byte} {x y : BitVec 32} : mkWord a x = mkWord c y ↔ a = c ∧ x = y := by
  constructor
  · intro h
    exact ⟨by simpa using congrArg opOf h, by simpa using congrArg restOf h⟩
  · rintro ⟨rfl, rfl⟩
    rfl

theorem lowByte_and (z m : BitVec 24) (n k : Byte) :
    (z ++ n : BitVec 32) &&& (m ++ k : BitVec 32) = ((z &&& m) ++ (n &&& k) : BitVec 32) := by
  apply BitVec.eq_of_getLsbD_eq
  intro i _
  simp only [BitVec.getLsbD_and, lowByte_bit]
  split <;> simp

theorem highByte_and (a k : Byte) (z m : BitVec 24) :
    (a ++ z : BitVec 32) &&& (k ++ m : BitVec 32) = ((a &&& k) ++ (z &&& m) : BitVec 32) := by
  apply BitVec.eq_of_getLsbD_eq
  intro i _
  simp only [BitVec.getLsbD_and, highByte_bit]
  split <;> simp

theorem halves_and (a b c d : BitVec 16) :
    (a ++ b : BitVec 32) &&& (c ++ d : BitVec 32) = ((a &&& c) ++ (b &&& d) : BitVec 32) := by
  apply BitVec.eq_of_getLsbD_eq
  intro i _
  simp only [BitVec.getLsbD_and, halves_bit]
  split <;> simp

theorem bytes2_and (a b c d : Byte) :
    (a ++ b : BitVec 16) &&& (c ++ d : BitVec 16) = ((a &&& c) ++ (b &&& d) : BitVec 16) := by
  apply BitVec.eq_of_getLsbD_eq
  intro i _
  simp only [BitVec.getLsbD_and, bytes2_bit]
  split <;> simp

theorem branch_and (a b c d : Byte) (t u : PcWord) :
    (a ++ b ++ t : BitVec 32) &&& (c ++ d ++ u : BitVec 32) = ((a &&& c) ++ (b &&& d) ++ (t &&& u) : BitVec 32) := by
  apply BitVec.eq_of_getLsbD_eq
  intro i _
  simp only [BitVec.getLsbD_and, branch_bit, bytes2_bit]
  split
  · rfl
  · split <;> simp

/-- Format P with its first byte apart: the four bytes as a byte and 24 bits. -/
theorem bytes4_high (a b c d : Byte) : (a ++ b ++ c ++ d : BitVec 32) = (a ++ (b ++ c ++ d : BitVec 24) : BitVec 32) := by
  apply BitVec.eq_of_getLsbD_eq
  intro i _
  rw [bytes4_bit, highByte_bit]
  simp only [bytes3_bit, bytes2_bit]
  have h1 : ¬ i < 24 → ¬ i < 8 ∧ ¬ i - 8 < 8 ∧ ¬ i - 8 - 8 < 8 ∧ i - 8 - 8 - 8 = i - 24 := by omega
  by_cases h : i < 24
  · simp only [h, if_true]
    split
    · rfl
    · split
      · rfl
      · have : i - 8 - 8 < 8 := by omega
        simp [this]
  · simp only [h1 h, if_false]
    simp [h]

end Sys2Proof
end

