-- ==== Sys2Proof/Laws/State.lean ====
section
/-! SUPPORT. One lemma per field per update of the state, each true by rfl, so that no later proof unfolds a record update. -/

namespace Sys2Proof.Machine

/-- An operation that does not branch completes at PC + 1. -/
@[simp] theorem State.advance_eq (s : State) (dur : Nat) : s.advance dur = s.complete dur (s.pc + 1) := rfl

/-- A conditional branch completes at its target or at PC + 1. -/
@[simp] theorem State.branch_eq (s : State) (taken : Bool) (target : PcWord) :
    s.branch taken target = s.complete 0 (if taken then target else s.pc + 1) := rfl

/-! `State.raise` -/

@[simp] theorem State.raise_pb (s : State) (c : HaltCause) (info : PcWord) : (s.raise c info).pb = s.pb := rfl
@[simp] theorem State.raise_eng (s : State) (c : HaltCause) (info : PcWord) : (s.raise c info).eng = s.eng := rfl
@[simp] theorem State.raise_pin (s : State) (c : HaltCause) (info : PcWord) : (s.raise c info).pin = s.pin := rfl
@[simp] theorem State.raise_rate (s : State) (c : HaltCause) (info : PcWord) : (s.raise c info).rate = s.rate := rfl
@[simp] theorem State.raise_idx (s : State) (c : HaltCause) (info : PcWord) : (s.raise c info).idx = s.idx := rfl
@[simp] theorem State.raise_rdata (s : State) (c : HaltCause) (info : PcWord) : (s.raise c info).rdata = s.rdata := rfl
@[simp] theorem State.raise_pc (s : State) (c : HaltCause) (info : PcWord) : (s.raise c info).pc = s.pc := rfl
@[simp] theorem State.raise_status (s : State) (c : HaltCause) (info : PcWord) :
    (s.raise c info).status = statusHalted s.status := rfl
@[simp] theorem State.raise_cause (s : State) (c : HaltCause) (info : PcWord) :
    (s.raise c info).cause = haltCode c := rfl
@[simp] theorem State.raise_epc (s : State) (c : HaltCause) (info : PcWord) : (s.raise c info).epc = info := rfl
@[simp] theorem State.raise_last (s : State) (c : HaltCause) (info : PcWord) : (s.raise c info).last = s.last := rfl
@[simp] theorem State.raise_temp10 (s : State) (c : HaltCause) (info : PcWord) :
    (s.raise c info).temp10 = s.temp10 := rfl
@[simp] theorem State.raise_ph10 (s : State) (c : HaltCause) (info : PcWord) : (s.raise c info).ph10 = s.ph10 := rfl
@[simp] theorem State.raise_level (s : State) (c : HaltCause) (info : PcWord) : (s.raise c info).level = s.level := rfl
@[simp] theorem State.raise_tNs (s : State) (c : HaltCause) (info : PcWord) : (s.raise c info).tNs = s.tNs := rfl
@[simp] theorem State.raise_wire (s : State) (c : HaltCause) (info : PcWord) : (s.raise c info).wire = s.wire := rfl
@[simp] theorem State.raise_disp (s : State) (c : HaltCause) (info : PcWord) : (s.raise c info).disp = s.disp := rfl
@[simp] theorem State.raise_env (s : State) (c : HaltCause) (info : PcWord) : (s.raise c info).env = s.env := rfl
@[simp] theorem State.raise_rom (s : State) (c : HaltCause) (info : PcWord) : (s.raise c info).rom = s.rom := rfl
@[simp] theorem State.raise_cfg (s : State) (c : HaltCause) (info : PcWord) : (s.raise c info).cfg = s.cfg := rfl

/-! `State.complete` -/

@[simp] theorem State.complete_pb (s : State) (dur : Nat) (target : PcWord) : (s.complete dur target).pb = s.pb := rfl
@[simp] theorem State.complete_eng (s : State) (dur : Nat) (target : PcWord) :
    (s.complete dur target).eng = s.eng := rfl
@[simp] theorem State.complete_pin (s : State) (dur : Nat) (target : PcWord) :
    (s.complete dur target).pin = s.pin := rfl
@[simp] theorem State.complete_rate (s : State) (dur : Nat) (target : PcWord) :
    (s.complete dur target).rate = s.rate := rfl
@[simp] theorem State.complete_idx (s : State) (dur : Nat) (target : PcWord) :
    (s.complete dur target).idx = s.idx := rfl
@[simp] theorem State.complete_rdata (s : State) (dur : Nat) (target : PcWord) :
    (s.complete dur target).rdata = s.rdata := rfl
@[simp] theorem State.complete_pc (s : State) (dur : Nat) (target : PcWord) :
    (s.complete dur target).pc = target := rfl
@[simp] theorem State.complete_status (s : State) (dur : Nat) (target : PcWord) :
    (s.complete dur target).status = s.status := rfl
@[simp] theorem State.complete_cause (s : State) (dur : Nat) (target : PcWord) :
    (s.complete dur target).cause = s.cause := rfl
@[simp] theorem State.complete_epc (s : State) (dur : Nat) (target : PcWord) :
    (s.complete dur target).epc = s.epc := rfl
@[simp] theorem State.complete_last (s : State) (dur : Nat) (target : PcWord) :
    (s.complete dur target).last = s.last := rfl
@[simp] theorem State.complete_temp10 (s : State) (dur : Nat) (target : PcWord) :
    (s.complete dur target).temp10 = s.temp10 := rfl
@[simp] theorem State.complete_ph10 (s : State) (dur : Nat) (target : PcWord) :
    (s.complete dur target).ph10 = s.ph10 := rfl
@[simp] theorem State.complete_level (s : State) (dur : Nat) (target : PcWord) :
    (s.complete dur target).level = s.level := rfl
@[simp] theorem State.complete_tNs (s : State) (dur : Nat) (target : PcWord) :
    (s.complete dur target).tNs = s.tNs + dur + s.overhead := rfl
@[simp] theorem State.complete_wire (s : State) (dur : Nat) (target : PcWord) :
    (s.complete dur target).wire = s.wire := rfl
@[simp] theorem State.complete_disp (s : State) (dur : Nat) (target : PcWord) :
    (s.complete dur target).disp = s.disp := rfl
@[simp] theorem State.complete_env (s : State) (dur : Nat) (target : PcWord) :
    (s.complete dur target).env = s.env.afterOp := rfl
@[simp] theorem State.complete_rom (s : State) (dur : Nat) (target : PcWord) :
    (s.complete dur target).rom = s.rom := rfl
@[simp] theorem State.complete_cfg (s : State) (dur : Nat) (target : PcWord) :
    (s.complete dur target).cfg = s.cfg := rfl

/-! `State.flagIdxErr` -/

@[simp] theorem State.flagIdxErr_pb (s : State) : s.flagIdxErr.pb = s.pb := rfl
@[simp] theorem State.flagIdxErr_eng (s : State) : s.flagIdxErr.eng = s.eng := rfl
@[simp] theorem State.flagIdxErr_pin (s : State) : s.flagIdxErr.pin = s.pin := rfl
@[simp] theorem State.flagIdxErr_rate (s : State) : s.flagIdxErr.rate = s.rate := rfl
@[simp] theorem State.flagIdxErr_idx (s : State) : s.flagIdxErr.idx = s.idx := rfl
@[simp] theorem State.flagIdxErr_rdata (s : State) : s.flagIdxErr.rdata = s.rdata := rfl
@[simp] theorem State.flagIdxErr_pc (s : State) : s.flagIdxErr.pc = s.pc := rfl
@[simp] theorem State.flagIdxErr_status (s : State) : s.flagIdxErr.status = statusIdxErr s.status := rfl
@[simp] theorem State.flagIdxErr_cause (s : State) : s.flagIdxErr.cause = s.cause := rfl
@[simp] theorem State.flagIdxErr_epc (s : State) : s.flagIdxErr.epc = s.epc := rfl
@[simp] theorem State.flagIdxErr_last (s : State) : s.flagIdxErr.last = s.last := rfl
@[simp] theorem State.flagIdxErr_temp10 (s : State) : s.flagIdxErr.temp10 = s.temp10 := rfl
@[simp] theorem State.flagIdxErr_ph10 (s : State) : s.flagIdxErr.ph10 = s.ph10 := rfl
@[simp] theorem State.flagIdxErr_level (s : State) : s.flagIdxErr.level = s.level := rfl
@[simp] theorem State.flagIdxErr_tNs (s : State) : s.flagIdxErr.tNs = s.tNs := rfl
@[simp] theorem State.flagIdxErr_wire (s : State) : s.flagIdxErr.wire = s.wire := rfl
@[simp] theorem State.flagIdxErr_disp (s : State) : s.flagIdxErr.disp = s.disp := rfl
@[simp] theorem State.flagIdxErr_env (s : State) : s.flagIdxErr.env = s.env := rfl
@[simp] theorem State.flagIdxErr_rom (s : State) : s.flagIdxErr.rom = s.rom := rfl
@[simp] theorem State.flagIdxErr_cfg (s : State) : s.flagIdxErr.cfg = s.cfg := rfl

/-! `State.clearPixels` -/

@[simp] theorem State.clearPixels_pb (s : State) :
    s.clearPixels.pb = Vector.replicate 25 (written Config.colBlack) := rfl
@[simp] theorem State.clearPixels_eng (s : State) : s.clearPixels.eng = s.eng := rfl
@[simp] theorem State.clearPixels_pin (s : State) : s.clearPixels.pin = s.pin := rfl
@[simp] theorem State.clearPixels_rate (s : State) : s.clearPixels.rate = s.rate := rfl
@[simp] theorem State.clearPixels_idx (s : State) : s.clearPixels.idx = s.idx := rfl
@[simp] theorem State.clearPixels_rdata (s : State) : s.clearPixels.rdata = s.rdata := rfl
@[simp] theorem State.clearPixels_pc (s : State) : s.clearPixels.pc = s.pc := rfl
@[simp] theorem State.clearPixels_status (s : State) : s.clearPixels.status = s.status := rfl
@[simp] theorem State.clearPixels_cause (s : State) : s.clearPixels.cause = s.cause := rfl
@[simp] theorem State.clearPixels_epc (s : State) : s.clearPixels.epc = s.epc := rfl
@[simp] theorem State.clearPixels_last (s : State) : s.clearPixels.last = s.last := rfl
@[simp] theorem State.clearPixels_temp10 (s : State) : s.clearPixels.temp10 = s.temp10 := rfl
@[simp] theorem State.clearPixels_ph10 (s : State) : s.clearPixels.ph10 = s.ph10 := rfl
@[simp] theorem State.clearPixels_level (s : State) : s.clearPixels.level = s.level := rfl
@[simp] theorem State.clearPixels_tNs (s : State) : s.clearPixels.tNs = s.tNs := rfl
@[simp] theorem State.clearPixels_wire (s : State) : s.clearPixels.wire = s.wire := rfl
@[simp] theorem State.clearPixels_disp (s : State) : s.clearPixels.disp = s.disp := rfl
@[simp] theorem State.clearPixels_env (s : State) : s.clearPixels.env = s.env := rfl
@[simp] theorem State.clearPixels_rom (s : State) : s.clearPixels.rom = s.rom := rfl
@[simp] theorem State.clearPixels_cfg (s : State) : s.clearPixels.cfg = s.cfg := rfl

/-! `State.claim` -/

@[simp] theorem State.claim_pb (s : State) (e : Engine) (pin : Byte) : (s.claim e pin).pb = s.pb := rfl
@[simp] theorem State.claim_eng (s : State) (e : Engine) (pin : Byte) : (s.claim e pin).eng = e := rfl
@[simp] theorem State.claim_pin (s : State) (e : Engine) (pin : Byte) : (s.claim e pin).pin = pin := rfl
@[simp] theorem State.claim_rate (s : State) (e : Engine) (pin : Byte) : (s.claim e pin).rate = Config.bitRate := rfl
@[simp] theorem State.claim_idx (s : State) (e : Engine) (pin : Byte) : (s.claim e pin).idx = s.idx := rfl
@[simp] theorem State.claim_rdata (s : State) (e : Engine) (pin : Byte) : (s.claim e pin).rdata = s.rdata := rfl
@[simp] theorem State.claim_pc (s : State) (e : Engine) (pin : Byte) : (s.claim e pin).pc = s.pc := rfl
@[simp] theorem State.claim_status (s : State) (e : Engine) (pin : Byte) : (s.claim e pin).status = s.status := rfl
@[simp] theorem State.claim_cause (s : State) (e : Engine) (pin : Byte) : (s.claim e pin).cause = s.cause := rfl
@[simp] theorem State.claim_epc (s : State) (e : Engine) (pin : Byte) : (s.claim e pin).epc = s.epc := rfl
@[simp] theorem State.claim_last (s : State) (e : Engine) (pin : Byte) : (s.claim e pin).last = s.last := rfl
@[simp] theorem State.claim_temp10 (s : State) (e : Engine) (pin : Byte) : (s.claim e pin).temp10 = s.temp10 := rfl
@[simp] theorem State.claim_ph10 (s : State) (e : Engine) (pin : Byte) : (s.claim e pin).ph10 = s.ph10 := rfl
@[simp] theorem State.claim_level (s : State) (e : Engine) (pin : Byte) : (s.claim e pin).level = s.level := rfl
@[simp] theorem State.claim_tNs (s : State) (e : Engine) (pin : Byte) : (s.claim e pin).tNs = s.tNs := rfl
@[simp] theorem State.claim_wire (s : State) (e : Engine) (pin : Byte) : (s.claim e pin).wire = s.wire := rfl
@[simp] theorem State.claim_disp (s : State) (e : Engine) (pin : Byte) : (s.claim e pin).disp = s.disp := rfl
@[simp] theorem State.claim_env (s : State) (e : Engine) (pin : Byte) : (s.claim e pin).env = s.env := rfl
@[simp] theorem State.claim_rom (s : State) (e : Engine) (pin : Byte) : (s.claim e pin).rom = s.rom := rfl
@[simp] theorem State.claim_cfg (s : State) (e : Engine) (pin : Byte) : (s.claim e pin).cfg = s.cfg := rfl

/-! `State.emitFrame` -/

@[simp] theorem State.emitFrame_pb (s : State) (t0 : Nat) : (s.emitFrame t0).pb = s.pb := rfl
@[simp] theorem State.emitFrame_eng (s : State) (t0 : Nat) : (s.emitFrame t0).eng = s.eng := rfl
@[simp] theorem State.emitFrame_pin (s : State) (t0 : Nat) : (s.emitFrame t0).pin = s.pin := rfl
@[simp] theorem State.emitFrame_rate (s : State) (t0 : Nat) : (s.emitFrame t0).rate = s.rate := rfl
@[simp] theorem State.emitFrame_idx (s : State) (t0 : Nat) : (s.emitFrame t0).idx = s.idx := rfl
@[simp] theorem State.emitFrame_rdata (s : State) (t0 : Nat) : (s.emitFrame t0).rdata = s.rdata := rfl
@[simp] theorem State.emitFrame_pc (s : State) (t0 : Nat) : (s.emitFrame t0).pc = s.pc := rfl
@[simp] theorem State.emitFrame_status (s : State) (t0 : Nat) : (s.emitFrame t0).status = s.status := rfl
@[simp] theorem State.emitFrame_cause (s : State) (t0 : Nat) : (s.emitFrame t0).cause = s.cause := rfl
@[simp] theorem State.emitFrame_epc (s : State) (t0 : Nat) : (s.emitFrame t0).epc = s.epc := rfl
@[simp] theorem State.emitFrame_last (s : State) (t0 : Nat) : (s.emitFrame t0).last = s.last := rfl
@[simp] theorem State.emitFrame_temp10 (s : State) (t0 : Nat) : (s.emitFrame t0).temp10 = s.temp10 := rfl
@[simp] theorem State.emitFrame_ph10 (s : State) (t0 : Nat) : (s.emitFrame t0).ph10 = s.ph10 := rfl
@[simp] theorem State.emitFrame_level (s : State) (t0 : Nat) : (s.emitFrame t0).level = s.level := rfl
@[simp] theorem State.emitFrame_tNs (s : State) (t0 : Nat) : (s.emitFrame t0).tNs = s.tNs := rfl
@[simp] theorem State.emitFrame_wire (s : State) (t0 : Nat) : (s.emitFrame t0).wire = s.wire ++ [⟨t0, s.frame⟩] := rfl
@[simp] theorem State.emitFrame_disp (s : State) (t0 : Nat) : (s.emitFrame t0).disp = s.disp := rfl
@[simp] theorem State.emitFrame_env (s : State) (t0 : Nat) : (s.emitFrame t0).env = s.env := rfl
@[simp] theorem State.emitFrame_rom (s : State) (t0 : Nat) : (s.emitFrame t0).rom = s.rom := rfl
@[simp] theorem State.emitFrame_cfg (s : State) (t0 : Nat) : (s.emitFrame t0).cfg = s.cfg := rfl

/-! `State.sendDisp` -/

@[simp] theorem State.sendDisp_pb (s : State) (e : DispEvent) : (s.sendDisp e).pb = s.pb := rfl
@[simp] theorem State.sendDisp_eng (s : State) (e : DispEvent) : (s.sendDisp e).eng = s.eng := rfl
@[simp] theorem State.sendDisp_pin (s : State) (e : DispEvent) : (s.sendDisp e).pin = s.pin := rfl
@[simp] theorem State.sendDisp_rate (s : State) (e : DispEvent) : (s.sendDisp e).rate = s.rate := rfl
@[simp] theorem State.sendDisp_idx (s : State) (e : DispEvent) : (s.sendDisp e).idx = s.idx := rfl
@[simp] theorem State.sendDisp_rdata (s : State) (e : DispEvent) : (s.sendDisp e).rdata = s.rdata := rfl
@[simp] theorem State.sendDisp_pc (s : State) (e : DispEvent) : (s.sendDisp e).pc = s.pc := rfl
@[simp] theorem State.sendDisp_status (s : State) (e : DispEvent) : (s.sendDisp e).status = s.status := rfl
@[simp] theorem State.sendDisp_cause (s : State) (e : DispEvent) : (s.sendDisp e).cause = s.cause := rfl
@[simp] theorem State.sendDisp_epc (s : State) (e : DispEvent) : (s.sendDisp e).epc = s.epc := rfl
@[simp] theorem State.sendDisp_last (s : State) (e : DispEvent) : (s.sendDisp e).last = s.last := rfl
@[simp] theorem State.sendDisp_temp10 (s : State) (e : DispEvent) : (s.sendDisp e).temp10 = s.temp10 := rfl
@[simp] theorem State.sendDisp_ph10 (s : State) (e : DispEvent) : (s.sendDisp e).ph10 = s.ph10 := rfl
@[simp] theorem State.sendDisp_level (s : State) (e : DispEvent) : (s.sendDisp e).level = s.level := rfl
@[simp] theorem State.sendDisp_tNs (s : State) (e : DispEvent) : (s.sendDisp e).tNs = s.tNs := rfl
@[simp] theorem State.sendDisp_wire (s : State) (e : DispEvent) : (s.sendDisp e).wire = s.wire := rfl
@[simp] theorem State.sendDisp_disp (s : State) (e : DispEvent) : (s.sendDisp e).disp = s.disp ++ [e] := rfl
@[simp] theorem State.sendDisp_env (s : State) (e : DispEvent) : (s.sendDisp e).env = s.env := rfl
@[simp] theorem State.sendDisp_rom (s : State) (e : DispEvent) : (s.sendDisp e).rom = s.rom := rfl
@[simp] theorem State.sendDisp_cfg (s : State) (e : DispEvent) : (s.sendDisp e).cfg = s.cfg := rfl

/-! `State.drawIdx` -/

@[simp] theorem State.drawIdx_pb (s : State) : s.drawIdx.pb = s.pb := rfl
@[simp] theorem State.drawIdx_eng (s : State) : s.drawIdx.eng = s.eng := rfl
@[simp] theorem State.drawIdx_pin (s : State) : s.drawIdx.pin = s.pin := rfl
@[simp] theorem State.drawIdx_rate (s : State) : s.drawIdx.rate = s.rate := rfl
@[simp] theorem State.drawIdx_idx (s : State) : s.drawIdx.idx = written (BitVec.ofNat 8 s.indexDraw) := rfl
@[simp] theorem State.drawIdx_rdata (s : State) : s.drawIdx.rdata = s.rdata := rfl
@[simp] theorem State.drawIdx_pc (s : State) : s.drawIdx.pc = s.pc := rfl
@[simp] theorem State.drawIdx_status (s : State) : s.drawIdx.status = s.status := rfl
@[simp] theorem State.drawIdx_cause (s : State) : s.drawIdx.cause = s.cause := rfl
@[simp] theorem State.drawIdx_epc (s : State) : s.drawIdx.epc = s.epc := rfl
@[simp] theorem State.drawIdx_last (s : State) : s.drawIdx.last = s.last := rfl
@[simp] theorem State.drawIdx_temp10 (s : State) : s.drawIdx.temp10 = s.temp10 := rfl
@[simp] theorem State.drawIdx_ph10 (s : State) : s.drawIdx.ph10 = s.ph10 := rfl
@[simp] theorem State.drawIdx_level (s : State) : s.drawIdx.level = s.level := rfl
@[simp] theorem State.drawIdx_tNs (s : State) : s.drawIdx.tNs = s.tNs := rfl
@[simp] theorem State.drawIdx_wire (s : State) : s.drawIdx.wire = s.wire := rfl
@[simp] theorem State.drawIdx_disp (s : State) : s.drawIdx.disp = s.disp := rfl
@[simp] theorem State.drawIdx_env (s : State) : s.drawIdx.env = { s.env with indices := s.env.indices.tail } := rfl
@[simp] theorem State.drawIdx_rom (s : State) : s.drawIdx.rom = s.rom := rfl
@[simp] theorem State.drawIdx_cfg (s : State) : s.drawIdx.cfg = s.cfg := rfl

/-! `State.drawSensors` -/

@[simp] theorem State.drawSensors_pb (s : State) : s.drawSensors.pb = s.pb := rfl
@[simp] theorem State.drawSensors_eng (s : State) : s.drawSensors.eng = s.eng := rfl
@[simp] theorem State.drawSensors_pin (s : State) : s.drawSensors.pin = s.pin := rfl
@[simp] theorem State.drawSensors_rate (s : State) : s.drawSensors.rate = s.rate := rfl
@[simp] theorem State.drawSensors_idx (s : State) : s.drawSensors.idx = s.idx := rfl
@[simp] theorem State.drawSensors_rdata (s : State) : s.drawSensors.rdata = s.rdata := rfl
@[simp] theorem State.drawSensors_pc (s : State) : s.drawSensors.pc = s.pc := rfl
@[simp] theorem State.drawSensors_status (s : State) : s.drawSensors.status = s.status := rfl
@[simp] theorem State.drawSensors_cause (s : State) : s.drawSensors.cause = s.cause := rfl
@[simp] theorem State.drawSensors_epc (s : State) : s.drawSensors.epc = s.epc := rfl
@[simp] theorem State.drawSensors_last (s : State) : s.drawSensors.last = s.last := rfl
@[simp] theorem State.drawSensors_temp10 (s : State) :
    s.drawSensors.temp10 = written (BitVec.ofNat 16 (drawInto Config.tempLo Config.tempCount s.sensorDraw.temp)) := rfl
@[simp] theorem State.drawSensors_ph10 (s : State) :
    s.drawSensors.ph10 = written (BitVec.ofNat 8 (drawInto Config.phLo Config.phCount s.sensorDraw.ph)) := rfl
@[simp] theorem State.drawSensors_level (s : State) :
    s.drawSensors.level = written (BitVec.ofNat 8 (drawInto Config.levelLo Config.levelCount s.sensorDraw.level)) := rfl
@[simp] theorem State.drawSensors_tNs (s : State) : s.drawSensors.tNs = s.tNs := rfl
@[simp] theorem State.drawSensors_wire (s : State) : s.drawSensors.wire = s.wire := rfl
@[simp] theorem State.drawSensors_disp (s : State) : s.drawSensors.disp = s.disp := rfl
@[simp] theorem State.drawSensors_env (s : State) :
    s.drawSensors.env = { s.env with sensors := s.env.sensors.tail } := rfl
@[simp] theorem State.drawSensors_rom (s : State) : s.drawSensors.rom = s.rom := rfl
@[simp] theorem State.drawSensors_cfg (s : State) : s.drawSensors.cfg = s.cfg := rfl

/-! `State.stampLast` -/

@[simp] theorem State.stampLast_pb (s : State) : s.stampLast.pb = s.pb := rfl
@[simp] theorem State.stampLast_eng (s : State) : s.stampLast.eng = s.eng := rfl
@[simp] theorem State.stampLast_pin (s : State) : s.stampLast.pin = s.pin := rfl
@[simp] theorem State.stampLast_rate (s : State) : s.stampLast.rate = s.rate := rfl
@[simp] theorem State.stampLast_idx (s : State) : s.stampLast.idx = s.idx := rfl
@[simp] theorem State.stampLast_rdata (s : State) : s.stampLast.rdata = s.rdata := rfl
@[simp] theorem State.stampLast_pc (s : State) : s.stampLast.pc = s.pc := rfl
@[simp] theorem State.stampLast_status (s : State) : s.stampLast.status = s.status := rfl
@[simp] theorem State.stampLast_cause (s : State) : s.stampLast.cause = s.cause := rfl
@[simp] theorem State.stampLast_epc (s : State) : s.stampLast.epc = s.epc := rfl
@[simp] theorem State.stampLast_last (s : State) : s.stampLast.last = s.nowMs := rfl
@[simp] theorem State.stampLast_temp10 (s : State) : s.stampLast.temp10 = s.temp10 := rfl
@[simp] theorem State.stampLast_ph10 (s : State) : s.stampLast.ph10 = s.ph10 := rfl
@[simp] theorem State.stampLast_level (s : State) : s.stampLast.level = s.level := rfl
@[simp] theorem State.stampLast_tNs (s : State) : s.stampLast.tNs = s.tNs := rfl
@[simp] theorem State.stampLast_wire (s : State) : s.stampLast.wire = s.wire := rfl
@[simp] theorem State.stampLast_disp (s : State) : s.stampLast.disp = s.disp := rfl
@[simp] theorem State.stampLast_env (s : State) : s.stampLast.env = s.env := rfl
@[simp] theorem State.stampLast_rom (s : State) : s.stampLast.rom = s.rom := rfl
@[simp] theorem State.stampLast_cfg (s : State) : s.stampLast.cfg = s.cfg := rfl

/-! `Env.afterOp`: the pins and TE_AVAIL are the environment's alone. -/

@[simp] theorem Env.afterOp_btnA (e : Env) : e.afterOp.btnA = e.btnA := rfl
@[simp] theorem Env.afterOp_btnB (e : Env) : e.afterOp.btnB = e.btnB := rfl
@[simp] theorem Env.afterOp_teAvail0 (e : Env) : e.afterOp.teAvail0 = e.teAvail0 := rfl
@[simp] theorem Env.afterOp_teAvail1 (e : Env) : e.afterOp.teAvail1 = e.teAvail1 := rfl
@[simp] theorem Env.afterOp_opCount (e : Env) : e.afterOp.opCount = e.opCount + 1 := rfl

/-! `State.withFetchWord` changes the ROM alone. -/

@[simp] theorem State.withFetchWord_pb (s : State) (nbits w : Nat) : (s.withFetchWord nbits w).pb = s.pb := rfl
@[simp] theorem State.withFetchWord_eng (s : State) (nbits w : Nat) : (s.withFetchWord nbits w).eng = s.eng := rfl
@[simp] theorem State.withFetchWord_pin (s : State) (nbits w : Nat) : (s.withFetchWord nbits w).pin = s.pin := rfl
@[simp] theorem State.withFetchWord_rate (s : State) (nbits w : Nat) : (s.withFetchWord nbits w).rate = s.rate := rfl
@[simp] theorem State.withFetchWord_idx (s : State) (nbits w : Nat) : (s.withFetchWord nbits w).idx = s.idx := rfl
@[simp] theorem State.withFetchWord_rdata (s : State) (nbits w : Nat) : (s.withFetchWord nbits w).rdata = s.rdata := rfl
@[simp] theorem State.withFetchWord_pc (s : State) (nbits w : Nat) : (s.withFetchWord nbits w).pc = s.pc := rfl
@[simp] theorem State.withFetchWord_status (s : State) (nbits w : Nat) : (s.withFetchWord nbits w).status = s.status := rfl
@[simp] theorem State.withFetchWord_cause (s : State) (nbits w : Nat) : (s.withFetchWord nbits w).cause = s.cause := rfl
@[simp] theorem State.withFetchWord_epc (s : State) (nbits w : Nat) : (s.withFetchWord nbits w).epc = s.epc := rfl
@[simp] theorem State.withFetchWord_last (s : State) (nbits w : Nat) : (s.withFetchWord nbits w).last = s.last := rfl
@[simp] theorem State.withFetchWord_temp10 (s : State) (nbits w : Nat) : (s.withFetchWord nbits w).temp10 = s.temp10 := rfl
@[simp] theorem State.withFetchWord_ph10 (s : State) (nbits w : Nat) : (s.withFetchWord nbits w).ph10 = s.ph10 := rfl
@[simp] theorem State.withFetchWord_level (s : State) (nbits w : Nat) : (s.withFetchWord nbits w).level = s.level := rfl
@[simp] theorem State.withFetchWord_tNs (s : State) (nbits w : Nat) : (s.withFetchWord nbits w).tNs = s.tNs := rfl
@[simp] theorem State.withFetchWord_wire (s : State) (nbits w : Nat) : (s.withFetchWord nbits w).wire = s.wire := rfl
@[simp] theorem State.withFetchWord_disp (s : State) (nbits w : Nat) : (s.withFetchWord nbits w).disp = s.disp := rfl
@[simp] theorem State.withFetchWord_env (s : State) (nbits w : Nat) : (s.withFetchWord nbits w).env = s.env := rfl
@[simp] theorem State.withFetchWord_cfg (s : State) (nbits w : Nat) : (s.withFetchWord nbits w).cfg = s.cfg := rfl

end Sys2Proof.Machine
end

