-- ==== Sys2Proof/Laws/Ops.lean ====
section
/-! SUPPORT. What each shared operation can do, said once: draws, reads, pixel writes, the frame, STATUS bits, the ROM. -/

namespace Sys2Proof.Machine

/-! Draws (rules R8, R9). -/

theorem drawInto_ge (lo n d : Nat) : lo ≤ drawInto lo n d := by
  unfold drawInto
  split <;> omega

theorem drawInto_lt (lo d : Nat) {n : Nat} (hn : 0 < n) : drawInto lo n d < lo + n := by
  unfold drawInto
  have := Nat.mod_lt d hn
  split <;> omega

/-- A number already in the range is the one drawn. -/
theorem drawInto_self {lo n d : Nat} (h1 : lo ≤ d) (h2 : d < lo + n) : drawInto lo n d = d := if_pos ⟨h1, h2⟩

theorem State.overhead_le (s : State) : s.overhead ≤ s.cfg.opMaxNs := by
  unfold State.overhead
  split
  · omega
  · have := drawInto_lt 0 (s.env.overheads.headD (Config.drawOverhead s.env.opCount))
      (n := s.cfg.opMaxNs + 1) (by omega)
    omega

theorem State.indexDraw_le (s : State) : s.indexDraw ≤ 24 := by
  have := drawInto_lt 0 (s.env.indices.headD (Config.drawIndex s.env.opCount)) (n := 25) (by omega)
  have h : s.indexDraw = drawInto 0 25 (s.env.indices.headD (Config.drawIndex s.env.opCount)) := rfl
  omega

/-- A draw below `m` keeps its value in a register of `m` values. -/
theorem toNat_ofNat_drawInto {w lo n d : Nat} (hn : 0 < n) (hm : lo + n ≤ 2 ^ w) :
    (BitVec.ofNat w (drawInto lo n d)).toNat = drawInto lo n d := by
  have := drawInto_lt lo d hn
  rw [BitVec.toNat_ofNat, Nat.mod_eq_of_lt (by omega)]

/-! Registers (rule R41). -/

@[simp] theorem readReg_written {α : Type} (v free : α) : readReg (written v) free = v := rfl

theorem readReg_of_written {α : Type} {r : Reg α} (free : α) (h : r.written = true) : readReg r free = r.value := by
  unfold readReg
  rw [if_pos h]

/-! STATUS (rules R28, R231). -/

theorem statusHalted_bit (x : Byte) (k : Nat) :
    (statusHalted x).getLsbD k = (x.getLsbD k || decide (k = 0)) := by
  have h : (0x01 : Byte).getLsbD k = decide (k = 0) := by
    by_cases hk : k < 8
    · have : ∀ j : Fin 8, (0x01 : Byte).getLsbD j.val = decide (j.val = 0) := by decide
      exact this ⟨k, hk⟩
    · have h0 : k ≠ 0 := by omega
      simp [h0, BitVec.getLsbD_of_ge _ _ (Nat.le_of_not_lt hk)]
  rw [statusHalted, BitVec.getLsbD_or, h]

theorem statusIdxErr_bit (x : Byte) (k : Nat) :
    (statusIdxErr x).getLsbD k = (x.getLsbD k || decide (k = 1)) := by
  have h : (0x02 : Byte).getLsbD k = decide (k = 1) := by
    by_cases hk : k < 8
    · have : ∀ j : Fin 8, (0x02 : Byte).getLsbD j.val = decide (j.val = 1) := by decide
      exact this ⟨k, hk⟩
    · have h1 : k ≠ 1 := by omega
      simp [h1, BitVec.getLsbD_of_ge _ _ (Nat.le_of_not_lt hk)]
  rw [statusIdxErr, BitVec.getLsbD_or, h]

/-- Setting either sticky bit leaves the reserved bits. -/
theorem statusHalted_reserved (x : Byte) : statusHalted x &&& 0xFC = x &&& 0xFC := by
  unfold statusHalted
  revert x
  decide

theorem statusIdxErr_reserved (x : Byte) : statusIdxErr x &&& 0xFC = x &&& 0xFC := by
  unfold statusIdxErr
  revert x
  decide

/-- HALTED and IDXERR are bits 0 and 1 of STATUS. -/
theorem State.halted_eq (s : State) : s.halted = s.status.getLsbD 0 := rfl

theorem State.idxErr_eq (s : State) : s.idxErr = s.status.getLsbD 1 := rfl

@[simp] theorem State.raise_halted (s : State) (c : HaltCause) (info : PcWord) : (s.raise c info).halted = true := by
  rw [State.halted_eq, State.raise_status, statusHalted_bit]
  simp

@[simp] theorem State.flagIdxErr_halted (s : State) : s.flagIdxErr.halted = s.halted := by
  rw [State.halted_eq, State.flagIdxErr_status, statusIdxErr_bit]
  simp [State.halted]

@[simp] theorem State.flagIdxErr_idxErr (s : State) : s.flagIdxErr.idxErr = true := by
  rw [State.idxErr_eq, State.flagIdxErr_status, statusIdxErr_bit]
  simp

/-- A code is one of rule R220's. -/
theorem haltCode_le (c : HaltCause) : (haltCode c).toNat ≤ 5 := by
  cases c <;> decide

@[simp] theorem State.complete_halted (s : State) (dur : Nat) (target : PcWord) :
    (s.complete dur target).halted = s.halted := rfl

/-- `raise` at the operation's own pc, in the words the statements use. -/
theorem State.raise_eq (s : State) (c : HaltCause) : s.raise c s.pc = HaltedState s (haltCode c) := rfl

/-! Pixel writes and reads (rules R68, R69, R131, R135). -/

theorem indexInRange_iff (idx : Byte) : indexInRange idx = true ↔ idx.toNat ≤ 24 := by
  simp [indexInRange]

theorem State.writePixel_of_le (s : State) {idx : Byte} (c : Pixel) (h : idx.toNat ≤ 24) :
    s.writePixel idx c = { s with pb := s.pb.setIfInBounds idx.toNat (written c) } :=
  if_pos ((indexInRange_iff idx).2 h)

theorem State.writePixel_of_gt (s : State) {idx : Byte} (c : Pixel) (h : 24 < idx.toNat) :
    s.writePixel idx c = s.flagIdxErr :=
  if_neg fun h' => by have := (indexInRange_iff idx).1 h'; omega

/-- A pixel write touches the buffer or the flag, and nothing else. -/
theorem State.writePixel_cases (s : State) (idx : Byte) (c : Pixel) :
    (idx.toNat ≤ 24 ∧ s.writePixel idx c = { s with pb := s.pb.setIfInBounds idx.toNat (written c) }) ∨
    (24 < idx.toNat ∧ s.writePixel idx c = s.flagIdxErr) := by
  by_cases h : idx.toNat ≤ 24
  · exact .inl ⟨h, s.writePixel_of_le c h⟩
  · exact .inr ⟨by omega, s.writePixel_of_gt c (by omega)⟩

/-- The pixel named holds the new value and every other what it held. -/
theorem pb_write_get (pb : Vector (Reg Pixel) 25) (n : Nat) (c : Pixel) (j : Fin 25) :
    (pb.setIfInBounds n (written c))[j] = if j.val = n then written c else pb[j] := by
  by_cases h : j.val = n
  · subst h
    simp
  · have h' : n ≠ j.val := fun e => h e.symm
    simp [h, h']

theorem pb_clear_get (j : Fin 25) (c : Reg Pixel) : (Vector.replicate 25 c)[j] = c := by
  simp

theorem State.readPixel_cases (s : State) (idx : Byte) :
    (∃ h : idx.toNat < 25, s.readPixel idx = { s with rdata := (s.pixel ⟨idx.toNat, h⟩).rgb }) ∨
    (24 < idx.toNat ∧ s.readPixel idx = s.flagIdxErr) := by
  by_cases h : idx.toNat < 25
  · exact .inl ⟨h, dif_pos h⟩
  · exact .inr ⟨by omega, dif_neg h⟩

/-- A pixel already written reads as what it holds. -/
theorem State.pixel_of_written (s : State) (i : Fin 25) (h : s.pb[i].written = true) : s.pixel i = s.pb[i].value :=
  readReg_of_written _ h

/-! The frame (rules R61, R62). -/

theorem State.frame_green (s : State) (i : Fin 25) : s.frame[3 * i.val]'(by omega) = (s.pixel i).g := by
  have h1 : 3 * i.val / 3 = i.val := by omega
  have h2 : 3 * i.val % 3 = 0 := by omega
  simp [State.frame, State.frameByte, h1, h2]

theorem State.frame_red (s : State) (i : Fin 25) : s.frame[3 * i.val + 1]'(by omega) = (s.pixel i).r := by
  have h1 : (3 * i.val + 1) / 3 = i.val := by omega
  have h2 : (3 * i.val + 1) % 3 = 1 := by omega
  simp [State.frame, State.frameByte, h1, h2]

theorem State.frame_blue (s : State) (i : Fin 25) : s.frame[3 * i.val + 2]'(by omega) = (s.pixel i).b := by
  have h1 : (3 * i.val + 2) / 3 = i.val := by omega
  have h2 : (3 * i.val + 2) % 3 = 2 := by omega
  simp [State.frame, State.frameByte, h1, h2]

/-! The frame-byte view (rule R61). -/

theorem State.memRead1_of_lt (s : State) {k : Nat} (h : k < 75) : s.memRead1 k = some (s.frameByte ⟨k, h⟩) := dif_pos h

theorem State.memRead1_of_ge (s : State) {k : Nat} (h : 75 ≤ k) : s.memRead1 k = none := dif_neg (by omega)

theorem State.memRead1_green (s : State) (i : Fin 25) : s.memRead1 (3 * i.val) = some (s.pixel i).g := by
  rw [s.memRead1_of_lt (by omega), ← s.frame_green i]
  simp [State.frame]

theorem State.memRead1_red (s : State) (i : Fin 25) : s.memRead1 (3 * i.val + 1) = some (s.pixel i).r := by
  rw [s.memRead1_of_lt (by omega), ← s.frame_red i]
  simp [State.frame]

theorem State.memRead1_blue (s : State) (i : Fin 25) : s.memRead1 (3 * i.val + 2) = some (s.pixel i).b := by
  rw [s.memRead1_of_lt (by omega), ← s.frame_blue i]
  simp [State.frame]

theorem State.memRead3_pixel (s : State) (i : Fin 25) : s.memRead3 (3 * i.val) = some (s.pixel i).grb := by
  have h1 : 3 * i.val / 3 = i.val := by omega
  have h2 : 3 * i.val % 3 = 0 := by omega
  simp [State.memRead3, h1, h2]

/-- The three channels of a 3-byte write are those of the pixel it writes, at the address of any pixel. -/
theorem State.memWrite3_pixel (s : State) (i : Fin 25) (v : BitVec 24) :
    s.memWrite3 (3 * i.val) v = some { s with
      pb := s.pb.setIfInBounds i.val (written ⟨v.extractLsb' 8 8, v.extractLsb' 16 8, v.extractLsb' 0 8⟩) } := by
  have h1 : 3 * i.val / 3 = i.val := by omega
  have h2 : 3 * i.val % 3 = 0 ∧ 3 * i.val / 3 < 25 := by omega
  have h3 : (BitVec.ofNat 8 i.val).toNat = i.val := by simp; omega
  rw [State.memWrite3, if_pos h2, h1, s.writePixel_of_le _ (by omega), h3]

/-- An address that is no multiple of 3, or past the view, has no 3-byte access. -/
theorem State.memAccess3_none (s : State) {a : Nat} (v : BitVec 24) (h : ¬ (a % 3 = 0 ∧ a / 3 < 25)) :
    s.memWrite3 a v = none ∧ s.memRead3 a = none := ⟨if_neg h, dif_neg h⟩

/-! The ROM (rules R26, R60, R78). -/

theorem romWith_get_self (rom : List OpWord) (n : Nat) (w : OpWord) : (romWith rom n w)[n]? = some w := by
  have h : (rom.take n ++ List.replicate (n - rom.length) 0).length = n := by
    simp only [List.length_append, List.length_take, List.length_replicate]
    omega
  rw [romWith, List.append_assoc, List.getElem?_append_right (by omega), h]
  simp

theorem romWith_get_other (rom : List OpWord) (n a : Nat) (w : OpWord) (ha : a < rom.length) (hn : a ≠ n) :
    (romWith rom n w)[a]? = rom[a]? := by
  have h : (rom.take n ++ List.replicate (n - rom.length) 0).length = n := by
    simp only [List.length_append, List.length_take, List.length_replicate]
    omega
  rw [romWith, List.append_assoc]
  by_cases hlt : a < n
  · rw [List.getElem?_append_left (by omega), List.getElem?_append_left (by rw [List.length_take]; omega),
      List.getElem?_take_of_lt hlt]
  · have e : a - n = (a - n - 1) + 1 := by omega
    have e2 : n + 1 + (a - n - 1) = a := by omega
    rw [List.getElem?_append_right (by omega), h, e, List.singleton_append, List.getElem?_cons_succ, List.getElem?_drop,
      e2]

/-- Placing a word keeps the ROM's form: its length is at most 65 536. -/
theorem romWith_wf (rom : List OpWord) (pc : PcWord) (w : OpWord) (h : Memory.wf rom) :
    Memory.wf (romWith rom pc.toNat w) := by
  have := pc.isLt
  simp only [Memory.wf, romWith, List.length_append, List.length_take, List.length_replicate, List.length_drop,
    List.length_singleton] at *
  omega

theorem shippedRom_wf (pin : Byte) : Memory.wf (shippedRom pin) := by
  have h : (shippedRom pin).length = 69 := rfl
  simp [Memory.wf, h]

/-- State.reset's ROM has the form. -/
theorem reset_rom_wf : Memory.wf State.reset.rom := shippedRom_wf _

theorem withFetchWord_wf (s : State) (nbits w : Nat) (h : Memory.wf s.rom) : Memory.wf (s.withFetchWord nbits w).rom :=
  romWith_wf _ _ _ h

end Sys2Proof.Machine
end

