-- ==== Sys2Proof/Laws/PerInstr.lean ====
section
/-! SUPPORT. What holds of every operation as a term, one lemma per constructor. Family `OpcodeRow`: the word of a well-formed
operation matches its own row of the opcode map (rule R103). -/

namespace Sys2Proof.Laws.OpcodeRow

/-- The word of `i` is accepted by a row of the opcode map whose `op` is `i`'s opcode. -/
def Statement (i : Instr) : Prop :=
  i.WellFormed = true → ∃ row ∈ opTable, row.op = i.opcode ∧ row.Accepts (encode i)

/-- The whole word of an operation without operands is checked. -/
theorem noOperand (op : Byte) : mkWord op 0 &&& 0xFFFFFFFFFF = mkWord op 0 := by
  have hm : (0xFFFFFFFFFF : OpWord) = mkWord 0xFF 0xFFFFFFFF := by decide
  rw [hm, mkWord_and, mkWord_inj]
  exact ⟨BitVec.and_allOnes, BitVec.zero_and⟩

/-- Where only the opcode is checked, the operands do not matter. -/
theorem anyOperand (op : Byte) (x : BitVec 32) : mkWord op x &&& 0xFF00000000 = mkWord op 0 := by
  have hm : (0xFF00000000 : OpWord) = mkWord 0xFF 0 := by decide
  rw [hm, mkWord_and, mkWord_inj]
  exact ⟨BitVec.and_allOnes, BitVec.and_zero⟩

theorem init (pin : Byte) : Statement (.init pin) := by
  intro _
  refine ⟨⟨0x01, 0x0100000000, 0xFFFFFFFF00⟩, by decide, rfl, ?_⟩
  have hm : (0xFFFFFFFF00 : OpWord) = mkWord 0xFF (0xFFFFFF#24 ++ 0x00#8) := by decide
  have hv : (0x0100000000 : OpWord) = mkWord 0x01 (0#24 ++ 0#8) := by decide
  simp only [OpRow.Accepts, encode, Instr.opcode, Instr.operandBits, hm, hv, mkWord_and, lowByte_and]
  simp

theorem set (idx r g b : Byte) : Statement (.set idx r g b) := fun _ =>
  ⟨⟨0x02, 0x0200000000, 0xFF00000000⟩, by decide, rfl, anyOperand 0x02 _⟩

theorem setx (r g b : Byte) : Statement (.setx r g b) := by
  intro _
  refine ⟨⟨0x03, 0x0300000000, 0xFFFF000000⟩, by decide, rfl, ?_⟩
  have hm : (0xFFFF000000 : OpWord) = mkWord 0xFF (0xFF#8 ++ 0#24) := by decide
  have hv : (0x0300000000 : OpWord) = mkWord 0x03 (0#8 ++ 0#24) := by decide
  show mkWord 0x03 (0#8 ++ r ++ g ++ b) &&& _ = _
  rw [hm, hv, bytes4_high, mkWord_and, mkWord_inj]
  exact ⟨by decide, (highByte_and 0#8 0xFF#8 (r ++ g ++ b) 0#24).trans (by rw [BitVec.and_zero, BitVec.zero_and])⟩

theorem clear : Statement .clear := fun _ => ⟨⟨0x04, 0x0400000000, 0xFFFFFFFFFF⟩, by decide, rfl, noOperand 0x04⟩

theorem write : Statement .write := fun _ => ⟨⟨0x05, 0x0500000000, 0xFFFFFFFFFF⟩, by decide, rfl, noOperand 0x05⟩

theorem get (idx : Byte) : Statement (.get idx) := by
  intro _
  refine ⟨⟨0x06, 0x0600000000, 0xFF00FFFFFF⟩, by decide, rfl, ?_⟩
  have hm : (0xFF00FFFFFF : OpWord) = mkWord 0xFF (0x00#8 ++ 0xFFFFFF#24) := by decide
  have hv : (0x0600000000 : OpWord) = mkWord 0x06 (0#8 ++ 0#24) := by decide
  simp only [OpRow.Accepts, encode, Instr.opcode, Instr.operandBits, hm, hv, mkWord_and, highByte_and]
  simp

theorem hold (imm : BitVec 32) : Statement (.hold imm) := fun _ =>
  ⟨⟨0x10, 0x1000000000, 0xFF00000000⟩, by decide, rfl, anyOperand 0x10 _⟩

theorem rand : Statement .rand := fun _ => ⟨⟨0x11, 0x1100000000, 0xFFFFFFFFFF⟩, by decide, rfl, noOperand 0x11⟩

theorem bnp (sel : Byte) (target : PcWord) : Statement (.bnp sel target) := by
  intro h
  refine ⟨⟨0x12, 0x1200000000, 0xFFFEFF0000⟩, by decide, rfl, ?_⟩
  have hm : (0xFFFEFF0000 : OpWord) = mkWord 0xFF (0xFE#8 ++ 0xFF#8 ++ 0#16) := by decide
  have hv : (0x1200000000 : OpWord) = mkWord 0x12 (0#8 ++ 0#8 ++ 0#16) := by decide
  have hs : sel &&& 0xFE = 0 := by
    have h1 : sel.toNat ≤ 1 := by simpa [Instr.WellFormed] using h
    obtain rfl | rfl : sel = 0 ∨ sel = 1 := by bv_omega
    · decide
    · decide
  show mkWord 0x12 (sel ++ 0#8 ++ target) &&& _ = _
  rw [hm, hv, mkWord_and, mkWord_inj]
  exact ⟨by decide, (branch_and sel 0#8 0xFE#8 0xFF#8 target 0#16).trans (by rw [show sel &&& 0xFE#8 = 0#8 from hs, BitVec.and_zero]; decide)⟩

theorem bnd (ms : BitVec 16) (target : PcWord) : Statement (.bnd ms target) := fun _ =>
  ⟨⟨0x13, 0x1300000000, 0xFF00000000⟩, by decide, rfl, anyOperand 0x13 _⟩

theorem jmp (target : PcWord) : Statement (.jmp target) := by
  intro _
  refine ⟨⟨0x14, 0x1400000000, 0xFFFFFF0000⟩, by decide, rfl, ?_⟩
  have hm : (0xFFFFFF0000 : OpWord) = mkWord 0xFF (0xFFFF#16 ++ 0#16) := by decide
  have hv : (0x1400000000 : OpWord) = mkWord 0x14 (0#16 ++ 0#16) := by decide
  simp only [OpRow.Accepts, encode, Instr.opcode, Instr.operandBits, hm, hv, mkWord_and, halves_and]
  simp

theorem tstamp : Statement .tstamp := fun _ => ⟨⟨0x15, 0x1500000000, 0xFFFFFFFFFF⟩, by decide, rfl, noOperand 0x15⟩

theorem halt : Statement .halt := fun _ => ⟨⟨0x1F, 0x1F00000000, 0xFFFFFFFFFF⟩, by decide, rfl, noOperand 0x1F⟩

theorem dclr : Statement .dclr := fun _ => ⟨⟨0x20, 0x2000000000, 0xFFFFFFFFFF⟩, by decide, rfl, noOperand 0x20⟩

theorem sgen : Statement .sgen := fun _ => ⟨⟨0x21, 0x2100000000, 0xFFFFFFFFFF⟩, by decide, rfl, noOperand 0x21⟩

theorem dtext (line : Byte) : Statement (.dtext line) := by
  intro h
  refine ⟨⟨0x22, 0x2200000000, 0xFFFFFFFFFC⟩, by decide, rfl, ?_⟩
  have hm : (0xFFFFFFFFFC : OpWord) = mkWord 0xFF (0xFFFFFF#24 ++ 0xFC#8) := by decide
  have hv : (0x2200000000 : OpWord) = mkWord 0x22 (0#24 ++ 0#8) := by decide
  have hn : line &&& 0xFC = 0 := by
    have h2 : line.toNat ≤ 2 := by simpa [Instr.WellFormed] using h
    obtain rfl | rfl | rfl : line = 0 ∨ line = 1 ∨ line = 2 := by bv_omega
    · decide
    · decide
    · decide
  show mkWord 0x22 (0#24 ++ line) &&& _ = _
  rw [hm, hv, mkWord_and, mkWord_inj]
  exact ⟨by decide, (lowByte_and 0 0xFFFFFF line 0xFC).trans (by rw [hn]; decide)⟩

theorem drend : Statement .drend := fun _ => ⟨⟨0x23, 0x2300000000, 0xFFFFFFFFFF⟩, by decide, rfl, noOperand 0x23⟩

end Sys2Proof.Laws.OpcodeRow
end

