-- ==== Sys2Proof/Laws/Step.lean ====
section
/-! SUPPORT. What an operation and a step can do, said once: an invariant is proved from these case lists, not by unfolding. -/

namespace Sys2Proof.Machine

/-- The state an operation completes from, when it completes: `s` with the operation's own effect. -/
def Effect (i : Instr) (s u : State) : Prop :=
  match i with
  | .init pin => s.eng = .unclaimed ∧ ∃ e, s.freeEngine = some e ∧ u = (s.claim e pin).clearPixels
  | .set idx r g b => u = s.writePixel idx ⟨r, g, b⟩
  | .setx r g b => u = s.writePixel s.idxValue ⟨r, g, b⟩
  | .clear => u = s.clearPixels
  | .write => s.eng ≠ .unclaimed ∧ u = s.emitFrame (s.tNs + s.overhead)
  | .get idx => u = s.readPixel idx
  | .hold _ => u = s
  | .rand => u = s.drawIdx
  | .bnp _ _ => u = s
  | .bnd _ _ => u = s
  | .jmp _ => u = s
  | .tstamp => u = s.stampLast
  | .halt => False
  | .dclr => u = s.sendDisp (.clear3 s.tNs)
  | .sgen => u = s.drawSensors
  | .dtext n => u = s.sendDisp (.text s.tNs n.toNat (s.lineValue n))
  | .drend => u = s.sendDisp (.render s.tNs)

/-- Where an operation that completes goes on. -/
def NextPc (i : Instr) (s : State) : PcWord :=
  match i with
  | .bnp sel target => if s.notPressed sel then target else s.pc + 1
  | .bnd ms target => if s.notDue ms then target else s.pc + 1
  | .jmp target => target
  | _ => s.pc + 1

/-- When an operation halts the machine instead, and with which cause (rule R220). -/
def Halts (i : Instr) (s : State) (c : HaltCause) : Prop :=
  (c = .haltOp ∧ i = .halt) ∨
  (c = .resourceExhaustion ∧ s.eng = .unclaimed ∧ s.env.teAvail0 = false ∧ s.env.teAvail1 = false ∧
    ∃ pin, i = .init pin) ∨
  (c = .notInitialised ∧ s.eng = .unclaimed ∧ i = .write) ∨
  (c = .reInit ∧ s.eng ≠ .unclaimed ∧ ∃ pin, i = .init pin)

/-- WRITE's duration is the frame and its gap (rules R65, R66, R265). -/
theorem nominalNs_write : nominalNs .write = Config.frameNs + Config.gapNs := rfl

theorem nominalNs_hold (imm : BitVec 32) : nominalNs (.hold imm) = imm.toNat * 1000000 := rfl

theorem freeEngine_none {s : State} : s.freeEngine = none ↔ s.env.teAvail0 = false ∧ s.env.teAvail1 = false := by
  unfold State.freeEngine
  cases s.env.teAvail0 <;> cases s.env.teAvail1 <;> simp

theorem freeEngine_some {s : State} {e : Engine} (h : s.freeEngine = some e) :
    e = (if s.env.teAvail0 then .primary else .secondary) ∧ e ≠ .unclaimed := by
  unfold State.freeEngine at h
  cases h0 : s.env.teAvail0 <;> cases h1 : s.env.teAvail1 <;> simp_all <;> subst h <;> decide

/-- An operation either halts the machine, changing nothing else, or completes with its effect. -/
theorem exec_cases {i : Instr} {s t : State} (h : exec i s = .next t) :
    (∃ c, Halts i s c ∧ t = s.raise c s.pc) ∨
    (∃ u, Effect i s u ∧ t = u.complete (nominalNs i) (NextPc i s)) := by
  cases i with
  | init pin =>
    simp only [exec, execInit, Host.Outcome.next.injEq] at h
    split at h
    · exact .inl ⟨_, .inr (.inr (.inr ⟨rfl, ‹_›, pin, rfl⟩)), h.symm⟩
    · rename_i he
      have he : s.eng = .unclaimed := by simpa using he
      split at h
      · rename_i hf
        obtain ⟨h0, h1⟩ := freeEngine_none.1 hf
        exact .inl ⟨_, .inr (.inl ⟨rfl, he, h0, h1, pin, rfl⟩), h.symm⟩
      · exact .inr ⟨_, ⟨he, _, ‹_›, rfl⟩, h.symm⟩
  | write =>
    simp only [exec, execWrite, Host.Outcome.next.injEq] at h
    split at h
    · exact .inl ⟨_, .inr (.inr (.inl ⟨rfl, ‹_›, rfl⟩)), h.symm⟩
    · exact .inr ⟨_, ⟨‹_›, rfl⟩, h.symm⟩
  | halt => exact .inl ⟨_, .inl ⟨rfl, rfl⟩, by cases h; rfl⟩
  | set idx r g b =>
    refine .inr ⟨_, rfl, ?_⟩
    obtain ⟨-, hw⟩ | ⟨-, hw⟩ := s.writePixel_cases idx ⟨r, g, b⟩ <;> cases h <;> rw [hw] <;> rfl
  | setx r g b =>
    refine .inr ⟨_, rfl, ?_⟩
    obtain ⟨-, hw⟩ | ⟨-, hw⟩ := s.writePixel_cases s.idxValue ⟨r, g, b⟩ <;> cases h <;> rw [hw] <;> rfl
  | get idx =>
    refine .inr ⟨_, rfl, ?_⟩
    obtain ⟨_, hw⟩ | ⟨_, hw⟩ := s.readPixel_cases idx <;> cases h <;> rw [hw] <;> rfl
  | _ => exact .inr ⟨_, rfl, by cases h; rfl⟩

/-- Every operation answers a next state. -/
theorem exec_next (i : Instr) (s : State) : ∃ t, exec i s = .next t := by
  cases i <;> exact ⟨_, rfl⟩

/-- A step: nothing if halted, else a fetch fault, a decode fault, or the operation (rules R150, R230). -/
theorem step_cases {s t : State} (h : step s = .next t) :
    (s.halted = true ∧ t = s) ∨
    (s.halted = false ∧ s.fetch = none ∧ t = s.raise .fetchOutOfRange s.pc) ∨
    (s.halted = false ∧ ∃ w, s.fetch = some w ∧
      ((∃ r, decode w = .error r) ∧ t = s.raise .illegalOp s.pc ∨ ∃ i, decode w = .ok i ∧ exec i s = .next t)) := by
  unfold step at h
  split at h
  · exact .inl ⟨‹_›, by cases h; rfl⟩
  · rename_i hh
    have hh : s.halted = false := by simpa using hh
    split at h
    · exact .inr (.inl ⟨hh, ‹_›, by cases h; rfl⟩)
    · split at h
      · exact .inr (.inr ⟨hh, _, ‹_›, .inl ⟨⟨_, ‹_›⟩, by cases h; rfl⟩⟩)
      · exact .inr (.inr ⟨hh, _, ‹_›, .inr ⟨_, ‹_›, h⟩⟩)

/-- Every step answers a next state: the model neither faults nor refuses. -/
theorem step_next (s : State) : ∃ t, step s = .next t := by
  unfold step
  split
  · exact ⟨_, rfl⟩
  · split
    · exact ⟨_, rfl⟩
    · split
      · exact ⟨_, rfl⟩
      · exact exec_next _ _

/-- Induction along a run: what holds at the start and is kept by every step holds at the end. -/
theorem run_induction {P : State → Prop} (hstep : ∀ s t, P s → step s = .next t → P t) :
    ∀ (n : Nat) (s t : State), P s → Host.Core.run Sys2Proof.core n s = .next t → P t := by
  intro n
  induction n with
  | zero =>
    intro s t hs h
    cases h
    exact hs
  | succ n ih =>
    intro s t hs h
    obtain ⟨u, hu⟩ := step_next s
    refine ih u t (hstep s u hs hu) ?_
    have hu' : Sys2Proof.core.step s = .next u := hu
    simpa only [Host.Core.run, hu'] using h

end Sys2Proof.Machine
end

