-- ==== Sys2Proof/Tests/Slice0.lean ====
section
/-! SUPPORT. Tests: ill-formed terms, words written out from the encoding, single steps against the vectors of
spec/95_test_vectors.md (each test names its own), and for each obligation with hypotheses a witness that meets them. -/

namespace Sys2Proof.Tests

open Sys2Proof.Machine

/-! ## Helpers -/

/-- An environment with the given buttons and engines and the draws of the vectors. -/
def env0 : Env :=
  { btnA := [], btnB := [], teAvail0 := true, teAvail1 := true, overheads := [], indices := [7],
    sensors := [⟨283, 71, 97⟩], opCount := 0 }

/-- The machine after reset with that ROM. -/
def boot (rom : List OpWord) : State := State.resetWith Config.default rom env0

/-- The start state of the pixel vectors: all pixels (0,0,255), IDX = 7, primary engine claimed. -/
def blue : State :=
  { boot [] with pb := Vector.replicate 25 (written Config.colBg), eng := .primary, rate := 800000, idx := written 7 }

/-- The state an operation leaves, or the state before it where it leaves none (no operation does that). -/
def after (i : Instr) (s : State) : State :=
  match exec i s with
  | .next t => t
  | _ => s

/-- The same for a step. -/
def stepped (s : State) : State :=
  match step s with
  | .next t => t
  | _ => s

/-! ## WellFormed -/

theorem test_bnp_selector_2_is_ill_formed : (Instr.bnp 2 0).WellFormed = false := by decide
theorem test_dtext_line_3_is_ill_formed : (Instr.dtext 3).WellFormed = false := by decide
theorem test_boundary_operands_are_well_formed :
    (Instr.bnp 1 0xFFFF).WellFormed = true ∧ (Instr.dtext 2).WellFormed = true := by decide

/-! ## Decoding: words written out from rules R101 and R103 (V-ENC, V-ILL) -/

theorem test_decode_init : decode 0x0100000003 = .ok (.init 3) := by decide
theorem test_decode_set : decode 0x021600FF00 = .ok (.set 22 0 255 0) := by decide
theorem test_decode_setx : decode 0x0300FFA500 = .ok (.setx 255 165 0) := by decide
theorem test_decode_clear : decode 0x0400000000 = .ok .clear := by decide
theorem test_decode_write : decode 0x0500000000 = .ok .write := by decide
theorem test_decode_get : decode 0x0607000000 = .ok (.get 7) := by decide
theorem test_decode_hold : decode 0x10000007D0 = .ok (.hold 2000) := by decide
theorem test_decode_rand : decode 0x1100000000 = .ok .rand := by decide
theorem test_decode_bnp : decode 0x120100003C = .ok (.bnp 1 0x3C) := by decide
theorem test_decode_bnd : decode 0x1313880001 = .ok (.bnd 5000 1) := by decide
theorem test_decode_jmp : decode 0x1400000001 = .ok (.jmp 1) := by decide
theorem test_decode_tstamp : decode 0x1500000000 = .ok .tstamp := by decide
theorem test_decode_halt : decode 0x1F00000000 = .ok .halt := by decide
theorem test_decode_dclr : decode 0x2000000000 = .ok .dclr := by decide
theorem test_decode_sgen : decode 0x2100000000 = .ok .sgen := by decide
theorem test_decode_dtext : decode 0x2200000002 = .ok (.dtext 2) := by decide
theorem test_decode_drend : decode 0x2300000000 = .ok .drend := by decide
/-- V-ENC-20 to V-ENC-22: every field value at its top is legal. -/
theorem test_decode_top_values :
    decode 0x02FFFFFFFF = .ok (.set 255 255 255 255) ∧ decode 0x10FFFFFFFF = .ok (.hold 0xFFFFFFFF) ∧
    decode 0x13FFFFFFFF = .ok (.bnd 0xFFFF 0xFFFF) := by decide
/-- V-ILL-1 to V-ILL-4: rule R104 (a). -/
theorem test_decode_unknown_opcodes :
    decode 0x0000000000 = .error (.unknownOpcode 0) ∧ decode 0x0700000000 = .error (.unknownOpcode 7) ∧
    decode 0x1600000000 = .error (.unknownOpcode 0x16) ∧ decode 0xFF00000000 = .error (.unknownOpcode 0xFF) := by
  decide
/-- V-ILL-5 to V-ILL-8, V-ILL-10, V-ILL-11, V-ILL-13, V-ILL-14: rule R104 (b). -/
theorem test_decode_must_be_zero :
    decode 0x0500000001 = .error (.mustBeZero 5) ∧ decode 0x0100000103 = .error (.mustBeZero 1) ∧
    decode 0x0301FFA500 = .error (.mustBeZero 3) ∧ decode 0x0607000001 = .error (.mustBeZero 6) ∧
    decode 0x120001001F = .error (.mustBeZero 0x12) ∧ decode 0x1401000001 = .error (.mustBeZero 0x14) ∧
    decode 0x1F00000001 = .error (.mustBeZero 0x1F) := by decide
/-- V-ILL-9, V-ILL-12, V-ILL-13: rule R104 (c) and (d). -/
theorem test_decode_bad_values :
    decode 0x1202000000 = .error (.badSelector 2) ∧ decode 0x2200000003 = .error (.badLine 3) ∧
    decode 0x2200000004 = .error (.badLine 4) := by decide
/-- The encoder gives the words of V-ENC-2, V-ENC-6, V-ENC-11 and V-ENC-12. -/
theorem test_encode :
    encode (.set 22 0 255 0) = 0x021600FF00 ∧ encode (.get 7) = 0x0607000000 ∧
    encode (.bnp 1 0x3C) = 0x120100003C ∧ encode (.bnd 5000 1) = 0x1313880001 := by decide
theorem test_decode_table_word :
    decodeTableWord 40 0x0100000003 = some (.init 3) ∧ decodeTableWord 40 0 = none ∧
    decodeTableWord 48 0x0100000003 = none := by decide

/-! ## Single steps -/

/-- V-INIT-3: only the secondary engine is free. -/
theorem test_init_takes_the_secondary :
    let t := after (.init 3) { boot [] with env := { env0 with teAvail0 := false } }
    t.eng = .secondary ∧ t.pin = 3 ∧ t.rate = 800000 ∧ t.pc = 1 ∧ t.pb[24] = ⟨⟨0, 0, 0⟩, true⟩ := by decide
/-- V-INIT-6: ReInit before ResourceExhaustion. -/
theorem test_init_twice_is_reinit :
    let t := after (.init 9) { blue with pc := 1, env := { env0 with teAvail0 := false, teAvail1 := false } }
    t.status = 1 ∧ t.cause = 4 ∧ t.epc = 1 ∧ t.pc = 1 ∧ t.pin = 0 ∧ t.pb = blue.pb := by decide
/-- V-SET-2: the last legal index. -/
theorem test_set_last_index :
    let t := after (.set 24 255 165 0) blue
    t.pb[24] = ⟨⟨255, 165, 0⟩, true⟩ ∧ t.pb[23] = ⟨⟨0, 0, 255⟩, true⟩ ∧ t.status = 0 ∧
    t.memRead1 72 = some 0xA5 ∧ t.memRead1 73 = some 0xFF ∧ t.memRead1 74 = some 0 := by decide
/-- V-SET-3: an invalid index is rejected, not clamped. -/
theorem test_set_invalid_index :
    let t := after (.set 25 1 2 3) blue
    t.pb = blue.pb ∧ t.status = 2 ∧ t.pc = 1 := by decide
/-- V-SETX-1. -/
theorem test_setx_uses_idx :
    let t := after (.setx 255 165 0) blue
    t.pb[7] = ⟨⟨255, 165, 0⟩, true⟩ ∧ t.pb[8] = ⟨⟨0, 0, 255⟩, true⟩ ∧ t.idx = written 7 := by decide
/-- V-SETX-3. -/
theorem test_setx_invalid_index :
    let t := after (.setx 1 1 1) { blue with idx := written 200 }
    t.pb = blue.pb ∧ t.status = 2 := by decide
/-- V-CLR-1 and V-CLR-3: black, and IDXERR stays. -/
theorem test_clear :
    let t := after .clear { blue with status := 2 }
    t.pb[0] = ⟨⟨0, 0, 0⟩, true⟩ ∧ t.pb[24] = ⟨⟨0, 0, 0⟩, true⟩ ∧ t.status = 2 := by decide
/-- V-WR-1: bytes 21 to 24, and the time. -/
theorem test_write_frame :
    let t := after .write { blue with pb := blue.pb.set 7 (written Config.colAccent) }
    t.wire.map (fun f => (f.t0, f.bytes[21], f.bytes[22], f.bytes[23], f.bytes[24], f.bytes[74])) =
      [(0, 0xA5, 0xFF, 0, 0, 0xFF)] ∧ t.tNs = 850000 ∧ t.pc = 1 := by decide
/-- V-WR-4: with an overhead of 999 999 the second first edge is at 1 849 999. -/
theorem test_write_overhead_comes_first :
    let t := after .write { blue with
      tNs := 850000, cfg := { Config.default with opMaxNs := 999999 }, env := { env0 with overheads := [999999] } }
    t.wire.map Frame.t0 = [1849999] ∧ t.tNs = 2699999 := by decide
/-- V-GET-1 and the packing of V-SET-5. -/
theorem test_get :
    (after (.get 24) blue).rdata = 0x0000FF ∧
    (after (.get 7) { blue with pb := blue.pb.set 7 (written Config.colAccent) }).rdata = 0xFFA500 := by decide
/-- V-GET-2. -/
theorem test_get_invalid_index :
    let t := after (.get 25) { blue with rdata := 0xFFA500 }
    t.rdata = 0xFFA500 ∧ t.status = 2 := by decide
/-- V-HOLD-2: 500 ms and the greatest overhead. -/
theorem test_hold :
    (after (.hold 500) { blue with
      cfg := { Config.default with opMaxNs := 999999 }, env := { env0 with overheads := [999999] } }).tNs = 500999999 := by
  decide
/-- V-HOLD-3: the no-op. -/
theorem test_hold_0 : (after (.hold 0) blue).tNs = 0 ∧ (after (.hold 0) blue).pc = 1 := by decide
/-- V-RAND-1 and V-RAND-2. -/
theorem test_rand :
    (after .rand (boot [])).idx = written 7 ∧
    (after .rand { boot [] with env := { env0 with indices := [24] } }).idx = written 24 := by decide
/-- V-BNP-1: not pressed by the pull-up. V-BNP-2: pressed. -/
theorem test_bnp_button_a :
    (after (.bnp 0 0x1F) { blue with pc := 8 }).pc = 0x1F ∧
    (after (.bnp 0 0x1F) { blue with pc := 8, env := { env0 with btnA := [⟨0, false⟩] } }).pc = 9 := by decide
/-- V-BNP-3: a press that is over at the sample. V-BNP-4: only the selected button is read. -/
theorem test_bnp_samples_once :
    (after (.bnp 0 0x1F) { blue with
      pc := 8, tNs := 4000000000, env := { env0 with btnA := [⟨1000000000, false⟩, ⟨4000000000, true⟩] } }).pc = 0x1F ∧
    (after (.bnp 1 0x3C) { blue with pc := 0x1F, env := { env0 with btnB := [⟨0, false⟩] } }).pc = 0x20 := by decide
/-- V-BND-1 and V-BND-2. -/
theorem test_bnd_at_the_bound :
    (after (.bnd 5000 1) { blue with pc := 0x3C, tNs := 4999999999 }).pc = 1 ∧
    (after (.bnd 5000 1) { blue with pc := 0x3C, tNs := 5000000000 }).pc = 0x3D := by decide
/-- V-BND-5 and V-BND-6: across the wrap. -/
theorem test_bnd_across_the_wrap :
    (after (.bnd 5000 1) { blue with pc := 0x3C, last := 4294966296, tNs := 4294971295000000 }).pc = 1 ∧
    (after (.bnd 5000 1) { blue with pc := 0x3C, last := 4294966296, tNs := 4294971296000000 }).pc = 0x3D := by decide
/-- V-JMP-1. -/
theorem test_jmp : (after (.jmp 1) { blue with pc := 0x44 }).pc = 1 := by decide
/-- V-TS-1 and V-TS-2. -/
theorem test_tstamp :
    (after .tstamp { blue with tNs := 8003400000 }).last = 8003 ∧
    (after .tstamp { blue with tNs := 4294967296000000 }).last = 0 := by decide
/-- V-HALT-1. -/
theorem test_halt :
    let t := after .halt { blue with pc := 5 }
    t.status = 1 ∧ t.cause = 0 ∧ t.epc = 5 ∧ t.pc = 5 := by decide
/-- V-DCLR-1 and V-DREND-1. -/
theorem test_dclr_drend :
    (after .dclr { blue with tNs := 8003400000 }).disp = [.clear3 8003400000] ∧
    (after .drend { blue with tNs := 5 }).disp = [.render 5] := by decide
/-- V-SGEN-1 and V-SGEN-3. -/
theorem test_sgen :
    let t := after .sgen blue
    let u := after .sgen { blue with env := { env0 with sensors := [⟨299, 79, 100⟩] } }
    t.temp10 = written 283 ∧ t.ph10 = written 71 ∧ t.level = written 97 ∧
    u.temp10 = written 299 ∧ u.ph10 = written 79 ∧ u.level = written 100 := by decide
/-- V-DTEXT-1 to V-DTEXT-3: each line its own register. -/
theorem test_dtext :
    let s := { blue with temp10 := written 283, ph10 := written 71, level := written 97, tNs := 6 }
    (after (.dtext 0) s).disp = [.text 6 0 283] ∧ (after (.dtext 1) s).disp = [.text 6 1 71] ∧
    (after (.dtext 2) s).disp = [.text 6 2 97] := by decide

/-- Rule R61 on the colour of V-SET-1: the view's order is green, red, blue, read and written. -/
theorem test_frame_byte_view_order :
    let s := after (.set 0 1 2 3) blue
    s.memRead3 0 = some 0x020103 ∧ s.memRead1 0 = some 2 ∧ s.memRead1 1 = some 1 ∧ s.memRead1 2 = some 3 ∧
    (blue.memWrite3 72 0xA5FF00).map (fun t => t.pb[24]) = some ⟨⟨255, 165, 0⟩, true⟩ := by decide

/-! ## Faults and the fetch (V-F) -/

/-- V-F-1. -/
theorem test_no_engine :
    let t := stepped { boot [0x0100000003] with env := { env0 with teAvail0 := false, teAvail1 := false } }
    t.status = 1 ∧ t.cause = 1 ∧ t.epc = 0 ∧ t.pc = 0 ∧ t.eng = .unclaimed ∧ t.pb[0].written = false := by decide
/-- V-F-3. -/
theorem test_write_before_init :
    let t := stepped (boot [0x0500000000])
    t.status = 1 ∧ t.cause = 3 ∧ t.epc = 0 ∧ t.wire = [] := by decide
/-- V-F-4 and V-F-8. -/
theorem test_illegal_words :
    (stepped (boot [0])).cause = 2 ∧ (stepped { blue with rom := [0, 0x0500000001], pc := 1 }).cause = 2 ∧
    (stepped { blue with rom := [0, 0x0500000001], pc := 1 }).epc = 1 ∧
    (stepped { blue with rom := [0, 0x0500000001], pc := 1 }).wire = [] := by decide
/-- V-F-5 and V-JMP-2: the fetch past the end. -/
theorem test_fetch_past_the_end :
    let t := stepped { blue with rom := [0x0100000003], pc := 1 }
    t.status = 1 ∧ t.cause = 5 ∧ t.epc = 1 ∧ t.pc = 1 := by decide
/-- V-F-7. -/
theorem test_halted_stays : stepped { blue with status := 1, rom := [0x1000000000] } =
    { blue with status := 1, rom := [0x1000000000] } := by decide
/-- V-BIT-1: the byte 02 sent either end first. -/
theorem test_wire_bits :
    (List.range 8).map (wireBit true 0x02) = [false, false, false, false, false, false, true, false] ∧
    (List.range 8).map (wireBit false 0x02) = [false, true, false, false, false, false, false, false] := by decide
/-- V-BIT-1 and V-BIT-3: the pulse of cell 6 of a frame that starts with 02. -/
theorem test_dout_pulse :
    let f : Frame := ⟨0, (Vector.replicate 75 0).set 0 0x02⟩
    let s : State := { blue with wire := [f], tNs := 850000 }
    s.dout 7500 = true ∧ s.dout 8299 = true ∧ s.dout 8300 = false ∧ s.dout 9149 = true ∧ s.dout 9150 = false ∧
    { s with cfg := { Config.default with t0hNs := 350, t1hNs := 700 } }.dout 8199 = true ∧
    { s with cfg := { Config.default with t0hNs := 350, t1hNs := 700 } }.dout 8200 = false := by decide

/-! ## Witnesses: for each obligation with hypotheses, a concrete state and operands that meet them all together -/

/-- A machine that has sent one black frame, with that ROM. -/
def lit (rom : List OpWord) : State :=
  { boot rom with
    pb := Vector.replicate 25 (written Config.colBlack), eng := .primary, rate := 800000,
    wire := [⟨0, Vector.replicate 75 0⟩], tNs := 850000, pc := 2 }

theorem lit_inv {rom : List OpWord} (h : Memory.wf rom) : (lit rom).Inv where
  params := by show Config.default.wf; decide
  romSize := h
  timer := by show (0 : Nat) < 2 ^ 32; decide
  reserved := by show (0 : Byte) &&& 0xFC = 0; decide
  driver := fun _ => ⟨rfl, fun i => by simp [lit, written]⟩
  silent := fun h => by cases h
  index := fun h => by cases h
  temp := fun h => by cases h
  ph := fun h => by cases h
  water := fun h => by cases h
  frames := List.pairwise_singleton _ _
  settled := fun f hf => by
    have : f = ⟨0, Vector.replicate 75 0⟩ := by simpa [lit] using hf
    subst this; show 0 + 850000 ≤ 850000; decide
  events := List.Pairwise.nil
  past := fun e he => by cases he
  running := fun _ => ⟨rfl, rfl⟩
  code := by show (0 : Nat) ≤ 5; decide

theorem reset_inv : State.reset.Inv where
  params := by show Config.default.wf; decide
  romSize := by show (shippedRom Config.default.ledPin).length ≤ 65536; decide
  timer := by show (0 : Nat) < 2 ^ 32; decide
  reserved := by show (0 : Byte) &&& 0xFC = 0; decide
  driver := fun h => absurd rfl h
  silent := fun _ => rfl
  index := fun h => by cases h
  temp := fun h => by cases h
  ph := fun h => by cases h
  water := fun h => by cases h
  frames := List.Pairwise.nil
  settled := fun f hf => by cases hf
  events := List.Pairwise.nil
  past := fun e he => by cases he
  running := fun _ => ⟨rfl, rfl⟩
  code := by show (0 : Nat) ≤ 5; decide

theorem witness_DecodeEncodeAgree :
    (Instr.bnp 1 0xFFFF).WellFormed = true ∧ (Instr.dtext 2).WellFormed = true := by decide
theorem witness_EncodeDecodeAgree : decode 0x120100FFFF = .ok (.bnp 1 0xFFFF) := by decide
theorem witness_DecodeFollowsOpcodeMap :
    (∃ i, decode 0x2200000002 = .ok i ∧ i.opcode = 0x22) ∧
    ¬ ∃ i, decode 0x2200000003 = .ok i ∧ i.opcode = 0x22 :=
  ⟨⟨.dtext 2, by decide⟩, fun ⟨i, h, _⟩ => by
    rw [show decode 0x2200000003 = .error (.badLine 3) by decide] at h; cases h⟩
theorem witness_OpcodeRowsAreDisjoint : ∃ row ∈ opTable, row.Accepts 0x120100FFFF := by decide
theorem witness_StepRunsDecodedInstruction :
    (lit [0, 0, 0x0618000000]).status.getLsbD 0 = false ∧
    (lit [0, 0, 0x0618000000]).rom[(lit [0, 0, 0x0618000000]).pc.toNat]? = some 0x0618000000 ∧
    decode 0x0618000000 = .ok (.get 24) := by decide
theorem witness_HaltedMachineStaysAsItIs : ({ blue with status := 0x03 } : State).status.getLsbD 0 = true := by decide
/-- At the boundary: PC = ROM_LEN. -/
theorem witness_FetchPastRomHalts :
    (lit [0, 0]).status.getLsbD 0 = false ∧ (lit [0, 0]).rom.length = (lit [0, 0]).pc.toNat := by decide
/-- An illegal and a legal word, apart by the extra check of DTEXT only. -/
theorem witness_WordsRunIfLegalAndHaltIfNot :
    (boot [0x2200000003]).status.getLsbD 0 = false ∧ (boot [0x2200000003]).rom[0]? = some 0x2200000003 ∧
    ¬ LegalWord 0x2200000003 ∧ (boot [0x2200000002]).rom[0]? = some 0x2200000002 ∧ LegalWord 0x2200000002 := by
  unfold LegalWord; decide
theorem witness_PlacedWordIsRunNext :
    (lit [0, 0x0400000000]).status.getLsbD 0 = false ∧ decodeTableWord 40 0x1000000000 = some (.hold 0) ∧
    1 < (lit [0, 0x0400000000]).rom.length ∧ 1 ≠ (lit [0, 0x0400000000]).pc.toNat := by decide
theorem witness_HaltingStepsArePrecise :
    (lit []).status.getLsbD 0 = false ∧ (lit []).Inv ∧
    ∃ t, step (lit []) = .next t ∧ t.status.getLsbD 0 = true ∧ t.tNs ≤ 850000 :=
  ⟨by decide, lit_inv (by decide), _, rfl, by decide, by decide⟩
/-- One halt of each cause but 0 and 5, each from a running state. -/
theorem witness_EveryHaltHasItsListedCause :
    (∃ t, step (boot [0x0500000000]) = .next t ∧ t.status.getLsbD 0 = true ∧ t.cause = 3) ∧
    (∃ t, step (lit [0, 0, 0x0100000000]) = .next t ∧ t.status.getLsbD 0 = true ∧ t.cause = 4) ∧
    (∃ t, step (boot [0]) = .next t ∧ t.status.getLsbD 0 = true ∧ t.cause = 2) ∧
    (∃ t, step { boot [0x0100000000] with env := { env0 with teAvail0 := false, teAvail1 := false } } = .next t ∧
      t.status.getLsbD 0 = true ∧ t.cause = 1) :=
  ⟨⟨_, rfl, by decide⟩, ⟨_, rfl, by decide⟩, ⟨_, rfl, by decide⟩, ⟨_, rfl, by decide⟩⟩
/-- The other two causes: HALT and a fetch past the ROM. -/
theorem witness_EveryHaltHasItsListedCause_ends :
    (∃ t, step (boot [0x1F00000000]) = .next t ∧ t.status.getLsbD 0 = true ∧ t.cause = 0) ∧
    (∃ t, step (boot []) = .next t ∧ t.status.getLsbD 0 = true ∧ t.cause = 5) :=
  ⟨⟨_, rfl, by decide⟩, ⟨_, rfl, by decide⟩⟩
/-- A state for each of the three clauses. -/
theorem witness_InitClaimsAnEngineOrHalts :
    ((boot []).eng = .unclaimed ∧ ((boot []).env.teAvail0 = true ∨ (boot []).env.teAvail1 = true)) ∧
    (let s := { boot [] with env := { env0 with teAvail0 := false, teAvail1 := false } }
     s.eng = .unclaimed ∧ s.env.teAvail0 = false ∧ s.env.teAvail1 = false) ∧
    (lit []).eng ≠ .unclaimed := by decide
/-- Both sides of the index bound, for SET, SETX and GET. -/
theorem witness_SetWritesOnePixelOrRejects : (24 : Byte).toNat ≤ 24 ∧ 24 < (25 : Byte).toNat := by decide
theorem witness_SetxWritesThePixelAtIdx :
    (let s := { blue with idx := written 24 }; s.idx.written = true ∧ s.idx.value.toNat ≤ 24) ∧
    (let s := { blue with idx := written 25 }; s.idx.written = true ∧ 24 < s.idx.value.toNat) := by decide
theorem witness_WriteSendsOneFrameOrHalts :
    (lit []).eng ≠ .unclaimed ∧ (lit []).pb[24].written = true ∧ (boot []).eng = .unclaimed := by decide
theorem witness_GetReadsThePixelOrRejects :
    (24 : Byte).toNat < 25 ∧ blue.pb[24].written = true ∧ 24 < (25 : Byte).toNat := by decide
theorem witness_GetAfterSetReturnsThePixel :
    ∃ t u, exec (.set 24 1 2 3) blue = .next t ∧ exec (.get 23) t = .next u ∧ (24 : Byte).toNat < 25 ∧
      (23 : Byte).toNat < 25 ∧ (23 : Byte) ≠ 24 ∧ blue.pb[23].written = true :=
  ⟨_, _, rfl, rfl, by decide⟩
theorem witness_GetAfterClearIsBlack :
    ∃ t u, exec .clear blue = .next t ∧ exec (.get 24) t = .next u ∧ (24 : Byte).toNat < 25 :=
  ⟨_, _, rfl, rfl, by decide⟩
/-- A written pixel at the end of the view, the last access, the first address past it, and one no multiple of 3. -/
theorem witness_FrameByteViewReadsWhatWasWritten :
    blue.pb[24].written = true ∧ (24 : Fin 25) ≠ 23 ∧ 75 ≤ 75 ∧
    (72 % 3 = 0 ∧ 72 + 3 ≤ 75) ∧ (71 < 75 ∧ 71 < 72) ∧ ¬ (75 % 3 = 0 ∧ 75 + 3 ≤ 75) ∧ ¬ (73 % 3 = 0 ∧ 73 + 3 ≤ 75) ∧
    (blue.memWrite3 72 0xA5FF00).isSome = true ∧ (blue.memWrite3 75 0).isSome = false := by decide
theorem witness_HoldWaitsItsMilliseconds :
    blue.cfg.wf ∧ ∃ t, exec (.hold 0xFFFFFFFF) blue = .next t := ⟨by decide, _, rfl⟩
theorem witness_BnpBranchesWhenNotPressed :
    (Instr.bnp 0 0x1F).WellFormed = true ∧ (Instr.bnp 1 0x3C).WellFormed = true ∧
    levelAt blue.env.btnA blue.tNs = true ∧ levelAt [⟨0, false⟩] blue.tNs = false := by decide
theorem witness_ElapsedTimeIsPlainBeforeTheWrap :
    (1 : PcWord) ≠ blue.pc + 0x3D ∧
    ∃ t, exec (.bnd 5000 1) { blue with pc := 0x3C, tNs := 5000000000 } = .next t ∧
      5000000000 / 1000000 < 2 ^ blue.cfg.timerBits ∧ blue.last ≤ 5000 ∧ t.pc = 0x3D :=
  ⟨by decide, _, rfl, by decide⟩
/-- The vector V-BND: the closest a check can come. -/
theorem witness_RefreshChecksAreSpaced :
    let s := { blue with tNs := 8003999999 }
    let u := { blue with tNs := 13003000000, last := 8003, pc := 0x3C }
    u.cfg = s.cfg ∧ u.last = s.tNs / 1000000 % 2 ^ s.cfg.timerBits ∧ s.tNs ≤ u.tNs ∧
    u.tNs / 1000000 < 2 ^ s.cfg.timerBits ∧ (1 : PcWord) ≠ u.pc + 1 ∧
    ∃ v, exec (.bnd 5000 1) u = .next v ∧ v.pc = u.pc + 1 :=
  ⟨rfl, by decide, by decide, by decide, by decide, _, rfl, by decide⟩
/-- Both ends of every range. -/
theorem witness_EveryDrawCanOccur :
    (after .rand { boot [] with env := { env0 with indices := [0] } }).idx = written 0 ∧
    (after .rand { boot [] with env := { env0 with indices := [24] } }).idx = written 24 ∧
    (after .sgen { boot [] with env := { env0 with sensors := [⟨270, 60, 95⟩] } }).temp10 = written 270 ∧
    (after .sgen { boot [] with env := { env0 with sensors := [⟨299, 79, 100⟩] } }).level = written 100 := by decide
theorem witness_DtextSendsTheLineValue :
    let s := after .sgen blue
    (Instr.dtext 0).WellFormed = true ∧ s.temp10.written = true ∧ (Instr.dtext 1).WellFormed = true ∧
    s.ph10.written = true ∧ (Instr.dtext 2).WellFormed = true ∧ s.level.written = true := by decide
theorem witness_RefreshOperationsTouchNeitherBufferNorWire :
    ∃ t u v w, exec .dclr (lit []) = .next t ∧ exec .sgen (lit []) = .next u ∧ exec (.dtext 2) (lit []) = .next v ∧
      exec .drend (lit []) = .next w := ⟨_, _, _, _, rfl, rfl, rfl, rfl⟩
theorem witness_ResetLeavesTheListedValues : Env.default.btnA = [] ∧ Env.default.btnB = [] := by decide
theorem witness_OnlyResetLeavesTheHaltedState :
    ∃ t, step { blue with status := 1 } = .next t ∧ ({ blue with status := 1 } : State).status.getLsbD 0 = true :=
  ⟨_, rfl, by decide⟩
theorem witness_InvariantHoldsAfterReset : Config.default.wf ∧ Memory.wf (shippedRom 3) :=
  ⟨by decide, by show (shippedRom 3).length ≤ 65536; decide⟩
theorem witness_EveryStepKeepsTheInvariant :
    (lit [0, 0, 0x0500000000]).Inv ∧ ∃ t, step (lit [0, 0, 0x0500000000]) = .next t ∧ t.tNs = 1700000 :=
  ⟨lit_inv (by decide), _, rfl, by decide⟩
/-- A run that ends with two frames. -/
theorem witness_FramesAreSequentialWithTheirGap :
    (lit [0, 0, 0x0500000000]).Inv ∧
    ∃ t, Host.Core.run Sys2Proof.core 1 (lit [0, 0, 0x0500000000]) = .next t ∧ t.wire.map Frame.t0 = [0, 850000] :=
  ⟨lit_inv (by decide), _, rfl, by decide⟩
theorem witness_BitCellsHaveTheirPulse :
    599 < 600 ∧ (lit []).Inv ∧ (⟨0, Vector.replicate 75 0⟩ : Frame) ∈ (lit []).wire ∧ 1249 < 1250 :=
  ⟨by decide, lit_inv (by decide), by decide, by decide⟩
theorem witness_DoutIsLowOutsideFrames :
    (∀ f ∈ (lit []).wire, 750000 < f.t0 ∨ f.t0 + 750000 ≤ 750000) ∧ (lit []).Inv ∧ (lit []).tNs ≤ 850000 :=
  ⟨by decide, lit_inv (by decide), by decide⟩
theorem witness_EveryFrameIsAWholeBufferSnapshot :
    (lit [0, 0, 0x0500000000]).Inv ∧
    ∃ t, step (lit [0, 0, 0x0500000000]) = .next t ∧ t.wire ≠ (lit [0, 0, 0x0500000000]).wire :=
  ⟨lit_inv (by decide), _, rfl, by decide⟩
/-- Each register is changed by one of its writers. -/
theorem witness_RegistersChangeOnlyByTheirWriters :
    (after (.init 3) (boot [])).pb ≠ (boot []).pb ∧ (after (.init 3) (boot [])).eng ≠ (boot []).eng ∧
    (after (.init 3) (boot [])).pin ≠ (boot []).pin ∧ (after (.init 3) (boot [])).rate ≠ (boot []).rate ∧
    (after .rand (boot [])).idx ≠ (boot []).idx ∧ (after (.get 0) blue).rdata ≠ blue.rdata ∧
    (after .tstamp { blue with tNs := 1000000 }).last ≠ blue.last ∧
    (after .sgen blue).temp10 ≠ blue.temp10 ∧ (after .sgen blue).ph10 ≠ blue.ph10 ∧
    (after .sgen blue).level ≠ blue.level ∧ (after .write blue).wire ≠ blue.wire ∧
    (after .dclr blue).disp ≠ blue.disp := by decide
/-- IDXERR stays set over a step, and CAUSE changes at a halt. -/
theorem witness_StatusBitsAreSticky :
    (∃ t, step { blue with status := 2, rom := [0x0400000000] } = .next t ∧ t.status.getLsbD 1 = true) ∧
    (∃ t, step (boot [0x0500000000]) = .next t ∧ t.cause ≠ (boot [0x0500000000]).cause) :=
  ⟨⟨_, rfl, by decide⟩, ⟨_, rfl, by decide⟩⟩
theorem witness_TimeAndHistoriesOnlyGrow :
    ∃ t, Host.Core.run Sys2Proof.core 1 (lit [0, 0, 0x2000000000]) = .next t ∧ t.disp = [.clear3 850000] :=
  ⟨_, rfl, by decide⟩
theorem witness_OperationsTakeTheirDuration :
    blue.status.getLsbD 0 = false ∧
    (∃ t, exec (.hold 1) blue = .next t ∧ t.status.getLsbD 0 = false) ∧
    ∃ t, exec .halt blue = .next t ∧ t.status.getLsbD 0 = true :=
  ⟨by decide, ⟨_, rfl, by decide⟩, ⟨_, rfl, by decide⟩⟩
theorem witness_PcAdvancesBranchesOrStays :
    blue.status.getLsbD 0 = false ∧ ∃ t, exec (.jmp 0x44) blue = .next t ∧ t.pc = 0x44 :=
  ⟨by decide, _, rfl, by decide⟩
/-- Two schedules that differ before and after the sample and agree at it. -/
theorem witness_ButtonsAreSampledOnlyAtTheStart :
    let s := { blue with tNs := 10, rom := [0x120000001F] }
    levelAt [⟨3, false⟩, ⟨9, true⟩] s.tNs = levelAt s.env.btnA s.tNs ∧
    levelAt [⟨11, false⟩] s.tNs = levelAt s.env.btnB s.tNs ∧ ∃ t, step s = .next t ∧ t.pc = 0x1F :=
  ⟨by decide, by decide, _, rfl, by decide⟩
theorem witness_ObserverRegistersAreNeverRead :
    ∃ t, step (lit [0, 0, 0x0500000000]) = .next t := ⟨_, rfl⟩
theorem witness_WriteAfterSetCarriesThePixel :
    (24 : Byte).toNat < 25 ∧ blue.eng ≠ .unclaimed ∧
    ∃ t u, exec (.set 24 1 2 3) blue = .next t ∧ exec .write t = .next u ∧ u.wire.length = 1 :=
  ⟨by decide, by decide, _, _, rfl, rfl, by decide⟩

end Sys2Proof.Tests
end

section
/-! SUPPORT. Scope (spec/00_scope.md): what every effect leaves alone, how long an operation takes, what only grows along a
run, and which draws can occur. -/

namespace Sys2Proof.Machine

/-! ## The frame of an operation's effect -/

/-- What the effect of an operation, before the operation completes, does to the time base, HALTED, the ROM, the
parameters and the two histories: it may append to a history, and leaves the rest. -/
structure EffectFrame (s u : State) : Prop where
  tNs : u.tNs = s.tNs
  halted : u.halted = s.halted
  rom : u.rom = s.rom
  cfg : u.cfg = s.cfg
  wire : s.wire <+: u.wire
  disp : s.disp <+: u.disp

theorem EffectFrame.refl (s : State) : EffectFrame s s :=
  ⟨rfl, rfl, rfl, rfl, List.prefix_rfl, List.prefix_rfl⟩

theorem flagIdxErr_frame (s : State) : EffectFrame s s.flagIdxErr where
  __ := EffectFrame.refl s
  halted := s.flagIdxErr_halted

theorem writePixel_frame (s : State) (idx : Byte) (c : Pixel) : EffectFrame s (s.writePixel idx c) := by
  obtain ⟨-, hw⟩ | ⟨-, hw⟩ := s.writePixel_cases idx c
  · rw [hw]
    exact { EffectFrame.refl s with }
  · rw [hw]
    exact flagIdxErr_frame s

theorem readPixel_frame (s : State) (idx : Byte) : EffectFrame s (s.readPixel idx) := by
  obtain ⟨_, hr⟩ | ⟨-, hr⟩ := s.readPixel_cases idx
  · rw [hr]
    exact { EffectFrame.refl s with }
  · rw [hr]
    exact flagIdxErr_frame s

theorem emitFrame_frame (s : State) (t0 : Nat) : EffectFrame s (s.emitFrame t0) where
  __ := EffectFrame.refl s
  wire := List.prefix_append _ _

theorem sendDisp_frame (s : State) (e : DispEvent) : EffectFrame s (s.sendDisp e) where
  __ := EffectFrame.refl s
  disp := List.prefix_append _ _

theorem effect_frame {i : Instr} {s u : State} (h : Effect i s u) : EffectFrame s u := by
  cases i with
  | init pin =>
    obtain ⟨-, e, -, rfl⟩ := h
    exact { EffectFrame.refl s with }
  | write =>
    obtain ⟨-, rfl⟩ := h
    exact emitFrame_frame s _
  | halt => exact h.elim
  | set idx r g b => exact h ▸ writePixel_frame s idx _
  | setx r g b => exact h ▸ writePixel_frame s s.idxValue _
  | get idx => exact h ▸ readPixel_frame s idx
  | dclr => exact h ▸ sendDisp_frame s _
  | dtext n => exact h ▸ sendDisp_frame s _
  | drend => exact h ▸ sendDisp_frame s _
  | _ =>
    change u = _ at h
    rw [h]
    exact { EffectFrame.refl s with }

/-! ## Durations -/

/-- Settles O47: what halts is a `raise`, which keeps the time, and what completes adds its duration and its overhead to
a time base that its effect has left alone. -/
theorem operationsTakeTheirDuration : Obligations.OperationsTakeTheirDuration := by
  intro i s t hs h
  simp only [← State.halted_eq] at hs ⊢
  obtain ⟨c, -, rfl⟩ | ⟨u, hu, rfl⟩ := exec_cases h
  · simp [State.raise_halted, State.raise_tNs]
  · have hf := effect_frame hu
    refine ⟨fun _ => ⟨u.overhead, hf.cfg ▸ u.overhead_le, ?_⟩, fun hh => ?_⟩
    · rw [State.complete_tNs, hf.tNs]
    · simp [State.complete_halted, hf.halted, hs] at hh

/-! ## What only grows along a run -/

/-- `t` can come after `s` in a run: its time is not earlier, its histories extend those of `s`, and the ROM and the
parameters are the same. -/
structure Grows (s t : State) : Prop where
  tNs : s.tNs ≤ t.tNs
  wire : s.wire <+: t.wire
  disp : s.disp <+: t.disp
  rom : t.rom = s.rom
  cfg : t.cfg = s.cfg

theorem Grows.refl (s : State) : Grows s s := ⟨le_rfl, List.prefix_rfl, List.prefix_rfl, rfl, rfl⟩

theorem Grows.trans {s t u : State} (h : Grows s t) (h' : Grows t u) : Grows s u :=
  ⟨h.tNs.trans h'.tNs, h.wire.trans h'.wire, h.disp.trans h'.disp, h'.rom.trans h.rom, h'.cfg.trans h.cfg⟩

theorem EffectFrame.grows {s u : State} (h : EffectFrame s u) : Grows s u :=
  ⟨h.tNs.ge, h.wire, h.disp, h.rom, h.cfg⟩

theorem raise_grows (s : State) (c : HaltCause) (info : PcWord) : Grows s (s.raise c info) :=
  { Grows.refl s with }

theorem complete_grows (s : State) (dur : Nat) (target : PcWord) : Grows s (s.complete dur target) where
  __ := Grows.refl s
  tNs := by rw [State.complete_tNs]; omega

theorem exec_grows {i : Instr} {s t : State} (h : exec i s = .next t) : Grows s t := by
  obtain ⟨c, -, rfl⟩ | ⟨u, hu, rfl⟩ := exec_cases h
  · exact raise_grows s c s.pc
  · exact (effect_frame hu).grows.trans (complete_grows u _ _)

theorem step_grows {s t : State} (h : step s = .next t) : Grows s t := by
  obtain ⟨-, rfl⟩ | ⟨-, -, rfl⟩ | ⟨-, w, -, ⟨-, rfl⟩ | ⟨i, -, hi⟩⟩ := step_cases h
  · exact Grows.refl t
  · exact raise_grows s _ _
  · exact raise_grows s _ _
  · exact exec_grows hi

theorem run_grows {n : Nat} {s t : State} (h : Host.Core.run Sys2Proof.core n s = .next t) : Grows s t :=
  run_induction (P := Grows s) (fun _ _ hu hstep => hu.trans (step_grows hstep)) n s t (Grows.refl s) h

/-- Settles O46, from the order `Grows` that every step respects. -/
theorem timeAndHistoriesOnlyGrow : Obligations.TimeAndHistoriesOnlyGrow := by
  intro s t n h
  obtain ⟨ht, ⟨w, hw⟩, ⟨d, hd⟩, hrom, hcfg⟩ := run_grows h
  exact ⟨ht, ⟨w, hw.symm⟩, ⟨d, hd.symm⟩, hrom, hcfg⟩

/-! ## Draws the environment has fixed -/

/-- A number of the range survives the draw and the register that receives it. -/
theorem toNat_ofNat_drawInto_self {w lo n d : Nat} (h1 : lo ≤ d) (h2 : d < lo + n) (hw : lo + n ≤ 2 ^ w) :
    (BitVec.ofNat w (drawInto lo n d)).toNat = d := by
  rw [toNat_ofNat_drawInto (by omega) hw, drawInto_self h1 h2]

theorem State.indexDraw_of_cons {s : State} {v : Nat} {q : List Nat} (h : s.env.indices = v :: q) :
    s.indexDraw = drawInto 0 Config.npix v := by
  rw [State.indexDraw, h, List.headD_cons]

theorem State.sensorDraw_of_cons {s : State} {d : SensorDraw} {q : List SensorDraw} (h : s.env.sensors = d :: q) :
    s.sensorDraw = d := by
  rw [State.sensorDraw, h, List.headD_cons]

theorem State.overhead_of_cons {s : State} {o : Nat} {q : List Nat} (h : s.env.overheads = o :: q)
    (ho : o ≤ s.cfg.opMaxNs) : s.overhead = o := by
  rw [State.overhead, h, List.headD_cons]
  split
  · omega
  · exact drawInto_self (Nat.zero_le o) (by omega)

/-- RAND takes the fixed index (rule R152). -/
theorem exec_rand_of_cons {s : State} {v : Nat} {q : List Nat} (h : s.env.indices = v :: q) (hv : v ≤ 24) :
    ∃ t, exec .rand s = .next t ∧ t.idx.value.toNat = v := by
  refine ⟨s.drawIdx.advance 0, rfl, ?_⟩
  rw [State.advance_eq, State.complete_idx, State.drawIdx_idx, State.indexDraw_of_cons h]
  exact toNat_ofNat_drawInto_self (Nat.zero_le v) (Nat.lt_succ_of_le hv) (by decide)

/-- SGEN takes the fixed triple (rule R171). -/
theorem exec_sgen_of_cons {s : State} {d : SensorDraw} {q : List SensorDraw} (h : s.env.sensors = d :: q)
    (htp : 270 ≤ d.temp ∧ d.temp ≤ 299) (hph : 60 ≤ d.ph ∧ d.ph ≤ 79) (hlv : 95 ≤ d.level ∧ d.level ≤ 100) :
    ∃ t, exec .sgen s = .next t ∧
      t.temp10.value.toNat = d.temp ∧ t.ph10.value.toNat = d.ph ∧ t.level.value.toNat = d.level := by
  refine ⟨s.drawSensors.advance 0, rfl, ?_⟩
  simp only [State.advance_eq, State.complete_temp10, State.complete_ph10, State.complete_level,
    State.drawSensors_temp10, State.drawSensors_ph10, State.drawSensors_level, State.sensorDraw_of_cons h, written]
  exact ⟨toNat_ofNat_drawInto_self htp.1 (Nat.lt_succ_of_le htp.2) (by decide),
    toNat_ofNat_drawInto_self hph.1 (Nat.lt_succ_of_le hph.2) (by decide),
    toNat_ofNat_drawInto_self hlv.1 (Nat.lt_succ_of_le hlv.2) (by decide)⟩

/-- HOLD 0 takes the fixed overhead and no more (rules R9, R151). -/
theorem exec_hold_zero_of_cons {s : State} {o : Nat} {q : List Nat} (h : s.env.overheads = o :: q)
    (ho : o ≤ s.cfg.opMaxNs) : ∃ t, exec (.hold 0) s = .next t ∧ t.tNs = s.tNs + o := by
  refine ⟨s.advance 0, rfl, ?_⟩
  rw [State.advance_eq, State.complete_tNs, State.overhead_of_cons h ho, Nat.add_zero]

/-- Settles O33: the queue that holds the wanted draw alone. -/
theorem everyDrawCanOccur : Obligations.EveryDrawCanOccur := by
  intro s
  refine ⟨fun v hv => ⟨[v], ?_⟩, fun tp ph lv htp htp' hph hph' hlv hlv' => ⟨[⟨tp, ph, lv⟩], ?_⟩,
    fun o ho => ⟨[o], ?_⟩⟩
  · exact exec_rand_of_cons rfl hv
  · exact exec_sgen_of_cons (d := ⟨tp, ph, lv⟩) rfl ⟨htp, htp'⟩ ⟨hph, hph'⟩ ⟨hlv, hlv'⟩
  · exact exec_hold_zero_of_cons rfl ho

end Sys2Proof.Machine
end

section
/-! SUPPORT. The state (spec/10_state.md): what a step answers, which registers an operation writes, what happens to STATUS,
CAUSE, EPC and PC, that the observer registers are never read, and the invariant of a run. -/

namespace Sys2Proof.Machine

/-! ## What an effect does to PC, STATUS, CAUSE and EPC -/

/-- The effect of an operation leaves PC, CAUSE and EPC, and sets at most IDXERR in STATUS. -/
structure ControlFrame (s u : State) : Prop where
  pc : u.pc = s.pc
  cause : u.cause = s.cause
  epc : u.epc = s.epc
  status : u.status = s.status ∨ u.status = statusIdxErr s.status

theorem ControlFrame.refl (s : State) : ControlFrame s s := ⟨rfl, rfl, rfl, .inl rfl⟩

theorem flagIdxErr_control (s : State) : ControlFrame s s.flagIdxErr where
  __ := ControlFrame.refl s
  status := .inr rfl

theorem writePixel_control (s : State) (idx : Byte) (c : Pixel) : ControlFrame s (s.writePixel idx c) := by
  obtain ⟨-, hw⟩ | ⟨-, hw⟩ := s.writePixel_cases idx c
  · rw [hw]
    exact { ControlFrame.refl s with }
  · rw [hw]
    exact flagIdxErr_control s

theorem readPixel_control (s : State) (idx : Byte) : ControlFrame s (s.readPixel idx) := by
  obtain ⟨_, hr⟩ | ⟨-, hr⟩ := s.readPixel_cases idx
  · rw [hr]
    exact { ControlFrame.refl s with }
  · rw [hr]
    exact flagIdxErr_control s

theorem effect_control {i : Instr} {s u : State} (h : Effect i s u) : ControlFrame s u := by
  cases i with
  | init pin =>
    obtain ⟨-, e, -, rfl⟩ := h
    exact { ControlFrame.refl s with }
  | write =>
    obtain ⟨-, rfl⟩ := h
    exact { ControlFrame.refl s with }
  | halt => exact h.elim
  | set idx r g b => exact h ▸ writePixel_control s idx _
  | setx r g b => exact h ▸ writePixel_control s s.idxValue _
  | get idx => exact h ▸ readPixel_control s idx
  | _ =>
    change u = _ at h
    rw [h]
    exact { ControlFrame.refl s with }

/-! ## What an operation and a step answer: the converse of `exec_cases` and `step_cases` -/

theorem exec_of_halts {i : Instr} {s : State} {c : HaltCause} (h : Halts i s c) :
    exec i s = .next (s.raise c s.pc) := by
  obtain ⟨rfl, rfl⟩ | ⟨rfl, he, h0, h1, pin, rfl⟩ | ⟨rfl, he, rfl⟩ | ⟨rfl, he, pin, rfl⟩ := h
  · rfl
  · simp [exec, execInit, he, freeEngine_none.2 ⟨h0, h1⟩]
  · simp [exec, execWrite, he]
  · simp [exec, execInit, he]

theorem ControlFrame.advance_eq {s u : State} (h : ControlFrame s u) (dur : Nat) :
    u.advance dur = u.complete dur (s.pc + 1) := by
  rw [State.advance_eq, h.pc]

theorem exec_of_effect {i : Instr} {s u : State} (h : Effect i s u) :
    exec i s = .next (u.complete (nominalNs i) (NextPc i s)) := by
  have advances := (effect_control h).advance_eq
  cases i with
  | init pin =>
    obtain ⟨he, e, hf, rfl⟩ := h
    simp only [exec, execInit, he, hf]
    exact congrArg Host.Outcome.next (advances 0)
  | write =>
    obtain ⟨he, rfl⟩ := h
    rw [exec, execWrite, if_neg he]
    exact congrArg Host.Outcome.next (advances (nominalNs .write))
  | halt => exact h.elim
  | set idx r g b =>
    subst h
    exact congrArg Host.Outcome.next (advances 0)
  | setx r g b =>
    subst h
    exact congrArg Host.Outcome.next (advances 0)
  | get idx =>
    subst h
    exact congrArg Host.Outcome.next (advances 0)
  | _ =>
    change u = _ at h
    rw [h]
    rfl

theorem step_of_halted {s : State} (h : s.halted = true) : step s = .next s := if_pos h

theorem step_of_fetch_none {s : State} (hh : s.halted = false) (hf : s.fetch = none) :
    step s = .next (s.raise .fetchOutOfRange s.pc) := by
  simp [step, hh, hf]

theorem step_of_illegal {s : State} {w : OpWord} {r : IllegalReason} (hh : s.halted = false) (hf : s.fetch = some w)
    (hd : decode w = .error r) : step s = .next (s.raise .illegalOp s.pc) := by
  simp [step, hh, hf, hd]

theorem step_of_decoded {s : State} {w : OpWord} {i : Instr} (hh : s.halted = false) (hf : s.fetch = some w)
    (hd : decode w = .ok i) : step s = exec i s := by
  simp [step, hh, hf, hd]

/-- Settles O7: a halted machine answers itself, so every step of the run starts from the same state. -/
theorem haltedMachineStaysAsItIs : Obligations.HaltedMachineStaysAsItIs := by
  intro s n h
  have hstep : Sys2Proof.core.step s = .next s := step_of_halted h
  induction n with
  | zero => rfl
  | succ n ih => simpa only [Host.Core.run, hstep] using ih

/-! ## Who writes which register (rule R20) -/

/-- `i` is one of the listed writers of each register in which `s` and `u` differ. -/
structure ChangedByWriters (i : Instr) (s u : State) : Prop where
  pb : u.pb ≠ s.pb → (∃ p, i = .init p) ∨ (∃ x r g b, i = .set x r g b) ∨ (∃ r g b, i = .setx r g b) ∨ i = .clear
  eng : u.eng ≠ s.eng → ∃ p, i = .init p
  pin : u.pin ≠ s.pin → ∃ p, i = .init p
  rate : u.rate ≠ s.rate → ∃ p, i = .init p
  idx : u.idx ≠ s.idx → i = .rand
  rdata : u.rdata ≠ s.rdata → ∃ x, i = .get x
  last : u.last ≠ s.last → i = .tstamp
  temp10 : u.temp10 ≠ s.temp10 → i = .sgen
  ph10 : u.ph10 ≠ s.ph10 → i = .sgen
  level : u.level ≠ s.level → i = .sgen
  wire : u.wire ≠ s.wire → i = .write
  disp : u.disp ≠ s.disp → i = .dclr ∨ (∃ n, i = .dtext n) ∨ i = .drend
  rom : u.rom = s.rom
  cfg : u.cfg = s.cfg
  btnA : u.env.btnA = s.env.btnA
  btnB : u.env.btnB = s.env.btnB
  teAvail0 : u.env.teAvail0 = s.env.teAvail0
  teAvail1 : u.env.teAvail1 = s.env.teAvail1

theorem ChangedByWriters.refl (i : Instr) (s : State) : ChangedByWriters i s s :=
  ⟨absurd rfl, absurd rfl, absurd rfl, absurd rfl, absurd rfl, absurd rfl, absurd rfl, absurd rfl, absurd rfl, absurd rfl,
    absurd rfl, absurd rfl, rfl, rfl, rfl, rfl, rfl, rfl⟩

theorem writePixel_changedByWriters {i : Instr} (s : State) (idx : Byte) (c : Pixel)
    (hi : (∃ x r g b, i = .set x r g b) ∨ ∃ r g b, i = .setx r g b) : ChangedByWriters i s (s.writePixel idx c) := by
  obtain ⟨-, hw⟩ | ⟨-, hw⟩ := s.writePixel_cases idx c
  · rw [hw]
    exact { ChangedByWriters.refl i s with pb := fun _ => .inr (hi.imp_right .inl) }
  · rw [hw]
    exact { ChangedByWriters.refl i s with }

theorem effect_changedByWriters {i : Instr} {s u : State} (h : Effect i s u) : ChangedByWriters i s u := by
  have same := ChangedByWriters.refl i s
  cases i with
  | init pin =>
    obtain ⟨-, e, -, rfl⟩ := h
    exact { same with
      pb := fun _ => .inl ⟨pin, rfl⟩, eng := fun _ => ⟨pin, rfl⟩, pin := fun _ => ⟨pin, rfl⟩, rate := fun _ => ⟨pin, rfl⟩ }
  | set idx r g b => exact h ▸ writePixel_changedByWriters s idx _ (.inl ⟨idx, r, g, b, rfl⟩)
  | setx r g b => exact h ▸ writePixel_changedByWriters s s.idxValue _ (.inr ⟨r, g, b, rfl⟩)
  | clear =>
    cases h
    exact { same with pb := fun _ => .inr (.inr (.inr rfl)) }
  | write =>
    obtain ⟨-, rfl⟩ := h
    exact { same with wire := fun _ => rfl }
  | get idx =>
    obtain ⟨_, hr⟩ | ⟨-, hr⟩ := s.readPixel_cases idx
    · cases h
      rw [hr]
      exact { same with rdata := fun _ => ⟨idx, rfl⟩ }
    · cases h
      rw [hr]
      exact { same with }
  | rand =>
    cases h
    exact { same with idx := fun _ => rfl }
  | tstamp =>
    cases h
    exact { same with last := fun _ => rfl }
  | sgen =>
    cases h
    exact { same with temp10 := fun _ => rfl, ph10 := fun _ => rfl, level := fun _ => rfl }
  | dclr =>
    cases h
    exact { same with disp := fun _ => .inl rfl }
  | dtext n =>
    cases h
    exact { same with disp := fun _ => .inr (.inl ⟨n, rfl⟩) }
  | drend =>
    cases h
    exact { same with disp := fun _ => .inr (.inr rfl) }
  | halt => exact h.elim
  | hold _ | bnp _ _ | bnd _ _ | jmp _ => exact h ▸ same

theorem exec_changedByWriters {i : Instr} {s t : State} (h : exec i s = .next t) : ChangedByWriters i s t := by
  obtain ⟨c, -, rfl⟩ | ⟨u, hu, rfl⟩ := exec_cases h
  · exact { ChangedByWriters.refl i s with }
  · exact { effect_changedByWriters hu with }

/-- Settles O44: a halt and the completion of an operation write none of these registers, and an effect only its own. -/
theorem registersChangeOnlyByTheirWriters : Obligations.RegistersChangeOnlyByTheirWriters := by
  intro i s t h
  have w := exec_changedByWriters h
  exact ⟨w.pb, w.eng, w.pin, w.rate, w.idx, w.rdata, w.last, w.temp10, w.ph10, w.level, w.wire, w.disp, w.rom, w.cfg,
    w.btnA, w.btnB, w.teAvail0, w.teAvail1⟩

/-! ## STATUS, CAUSE, EPC and PC -/

/-- A step either leaves CAUSE, EPC and all of STATUS but IDXERR, or it halts a running machine. -/
theorem step_status_cases {s t : State} (h : step s = .next t) :
    ((t.status = s.status ∨ t.status = statusIdxErr s.status) ∧ t.cause = s.cause ∧ t.epc = s.epc) ∨
    (s.halted = false ∧ t.status = statusHalted s.status) := by
  obtain ⟨-, rfl⟩ | ⟨hh, -, rfl⟩ | ⟨hh, w, -, ⟨-, rfl⟩ | ⟨i, -, hi⟩⟩ := step_cases h
  · exact .inl ⟨.inl rfl, rfl, rfl⟩
  · exact .inr ⟨hh, rfl⟩
  · exact .inr ⟨hh, rfl⟩
  · obtain ⟨c, -, rfl⟩ | ⟨u, hu, rfl⟩ := exec_cases hi
    · exact .inr ⟨hh, rfl⟩
    · have hc := effect_control hu
      exact .inl ⟨hc.status, hc.cause, hc.epc⟩

/-- Settles O45: STATUS stays or gets one of its two bits, and only the halt that sets HALTED writes CAUSE and EPC. -/
theorem statusBitsAreSticky : Obligations.StatusBitsAreSticky := by
  intro s t h
  obtain ⟨hs, hcause, hepc⟩ | ⟨hrun, hs⟩ := step_status_cases h
  · have hobs : ¬ (t.cause ≠ s.cause ∨ t.epc ≠ s.epc) := by simp [hcause, hepc]
    obtain hs | hs := hs
    · exact ⟨by rw [hs]; exact id, by rw [hs]; exact id, fun k _ => by rw [hs], fun hc => absurd hc hobs⟩
    · refine ⟨fun h0 => ?_, fun _ => ?_, fun k hk => ?_, fun hc => absurd hc hobs⟩
      · simp [hs, statusIdxErr_bit, h0]
      · simp [hs, statusIdxErr_bit]
      · simp [hs, statusIdxErr_bit, show k ≠ 1 by omega]
  · refine ⟨fun _ => ?_, fun h1 => ?_, fun k hk => ?_, fun _ => ⟨hrun, ?_⟩⟩
    · simp [hs, statusHalted_bit]
    · simp [hs, statusHalted_bit, h1]
    · simp [hs, statusHalted_bit, show k ≠ 0 by omega]
    · simp [hs, statusHalted_bit]

/-- An operation that completes goes on at the next word or at the target it names. -/
theorem nextPc_cases (i : Instr) (s : State) :
    NextPc i s = s.pc + 1 ∨
    (i = .jmp (NextPc i s) ∨ (∃ sel, i = .bnp sel (NextPc i s)) ∨ ∃ ms, i = .bnd ms (NextPc i s)) := by
  cases i with
  | jmp target => exact .inr (.inl rfl)
  | bnp sel target => by_cases hb : s.notPressed sel = true <;> simp [NextPc, hb]
  | bnd ms target => by_cases hb : s.notDue ms = true <;> simp [NextPc, hb]
  | _ => exact .inl rfl

/-- Settles O48: a halt is a `raise`, which keeps PC, and a completion writes `NextPc` and leaves HALTED. -/
theorem pcAdvancesBranchesOrStays : Obligations.PcAdvancesBranchesOrStays := by
  intro i s t hs h
  obtain ⟨c, -, rfl⟩ | ⟨u, hu, rfl⟩ := exec_cases h
  · exact .inl ⟨s.raise_halted c s.pc, rfl⟩
  · exact .inr ⟨(effect_frame hu).halted.trans hs, nextPc_cases i s⟩

/-! ## The observer registers (rules R25, R29, R30) -/

/-- Contents of the five registers that are for an observer. -/
structure Observers where
  pin : Byte
  rate : Nat
  rdata : BitVec 24
  cause : BitVec 4
  epc : PcWord

/-- `s` with these contents in its observer registers. -/
def State.withObservers (s : State) (o : Observers) : State :=
  { s with pin := o.pin, rate := o.rate, rdata := o.rdata, cause := o.cause, epc := o.epc }

/-- The same states up to the observer registers. -/
def SameButObservers (t t' : State) : Prop := ∃ o : Observers, t' = t.withObservers o

theorem raise_withObservers (s : State) (o : Observers) (c : HaltCause) (info : PcWord) :
    SameButObservers (s.raise c info) ((s.withObservers o).raise c info) :=
  ⟨{ o with cause := haltCode c, epc := info }, rfl⟩

theorem claim_withObservers (s : State) (o : Observers) (e : Engine) (pin : Byte) :
    SameButObservers (s.claim e pin) ((s.withObservers o).claim e pin) :=
  ⟨{ o with pin := pin, rate := Config.bitRate }, rfl⟩

theorem writePixel_withObservers (s : State) (o : Observers) (idx : Byte) (c : Pixel) :
    (s.withObservers o).writePixel idx c = (s.writePixel idx c).withObservers o := by
  obtain ⟨hi, hw⟩ | ⟨hi, hw⟩ := s.writePixel_cases idx c
  · rw [hw, State.writePixel_of_le _ c hi]
    rfl
  · rw [hw, State.writePixel_of_gt _ c hi]
    rfl

theorem readPixel_withObservers (s : State) (o : Observers) (idx : Byte) :
    SameButObservers (s.readPixel idx) ((s.withObservers o).readPixel idx) := by
  by_cases h : idx.toNat < 25
  · rw [State.readPixel, State.readPixel, dif_pos h, dif_pos h]
    exact ⟨{ o with rdata := (s.pixel ⟨idx.toNat, h⟩).rgb }, rfl⟩
  · rw [State.readPixel, State.readPixel, dif_neg h, dif_neg h]
    exact ⟨o, rfl⟩

/-- The same effect takes place whatever the observer registers hold, up to what they hold after it. -/
theorem effect_withObservers {i : Instr} {s u : State} (o : Observers) (h : Effect i s u) :
    ∃ u', Effect i (s.withObservers o) u' ∧ SameButObservers u u' := by
  cases i with
  | init pin =>
    obtain ⟨he, e, hf, rfl⟩ := h
    obtain ⟨o', ho⟩ := claim_withObservers s o e pin
    exact ⟨_, ⟨he, e, hf, rfl⟩, o', congrArg State.clearPixels ho⟩
  | set idx r g b => exact ⟨_, rfl, o, h ▸ writePixel_withObservers s o idx _⟩
  | setx r g b => exact ⟨_, rfl, o, h ▸ writePixel_withObservers s o s.idxValue _⟩
  | write =>
    obtain ⟨he, rfl⟩ := h
    exact ⟨_, ⟨he, rfl⟩, o, rfl⟩
  | get idx => exact ⟨_, rfl, h ▸ readPixel_withObservers s o idx⟩
  | halt => exact h.elim
  | _ => exact ⟨_, rfl, o, by cases h; rfl⟩

theorem exec_withObservers {i : Instr} {s t : State} (o : Observers) (h : exec i s = .next t) :
    ∃ t', exec i (s.withObservers o) = .next t' ∧ SameButObservers t t' := by
  obtain ⟨c, hc, rfl⟩ | ⟨u, hu, rfl⟩ := exec_cases h
  · exact ⟨_, exec_of_halts (s := s.withObservers o) hc, raise_withObservers s o c s.pc⟩
  · obtain ⟨u', hu', o', rfl⟩ := effect_withObservers o hu
    exact ⟨_, exec_of_effect hu', o', rfl⟩

theorem step_withObservers {s t : State} (o : Observers) (h : step s = .next t) :
    ∃ t', step (s.withObservers o) = .next t' ∧ SameButObservers t t' := by
  obtain ⟨hh, rfl⟩ | ⟨hh, hf, rfl⟩ | ⟨hh, w, hf, ⟨⟨r, hd⟩, rfl⟩ | ⟨i, hd, hi⟩⟩ := step_cases h
  · exact ⟨_, step_of_halted (s := t.withObservers o) hh, o, rfl⟩
  · exact ⟨_, step_of_fetch_none (s := s.withObservers o) hh hf, raise_withObservers s o _ s.pc⟩
  · exact ⟨_, step_of_illegal (s := s.withObservers o) hh hf hd, raise_withObservers s o _ s.pc⟩
  · rw [step_of_decoded (s := s.withObservers o) hh hf hd]
    exact exec_withObservers o hi

/-- Settles O50: the step takes the same case and the same effect whatever the observer registers hold. -/
theorem observerRegistersAreNeverRead : Obligations.ObserverRegistersAreNeverRead := by
  intro s t pin rate rdata cause epc h
  obtain ⟨t', ht', o, rfl⟩ := step_withObservers ⟨pin, rate, rdata, cause, epc⟩ h
  exact ⟨o.pin, o.rate, o.rdata, o.cause, o.epc, ht'⟩

/-! ## Reset (rules R41, R250) -/

/-- Without frames DOUT is low, by its idle level. -/
theorem State.dout_of_wire_nil {s : State} (h : s.wire = []) (τ : Nat) : s.dout τ = false := by
  rw [State.dout, h, List.any_nil]

/-- Settles O36: the record of `State.resetWith`, and what DOUT, NOW_MS and an undriven pin read from it. -/
theorem resetLeavesTheListedValues : Obligations.ResetLeavesTheListedValues := by
  intro cfg rom env s
  have hnow : s.nowMs = 0 := by simp [s, State.nowMs, State.resetWith]
  have hpb : ∀ i : Fin 25, s.pb[i].written = false := fun i => by
    rw [show s.pb[i] = unwritten Config.colBlack from pb_clear_get i _]
    rfl
  have hundriven : ∀ (edges : List Edge) (τ : Nat), edges = [] → levelAt edges τ = true := fun _ _ h => h ▸ rfl
  exact ⟨rfl, rfl, rfl, rfl, rfl, rfl, rfl, hnow, rfl, rfl, State.dout_of_wire_nil rfl, hpb, rfl, rfl, rfl, rfl,
    hundriven env.btnA, hundriven env.btnB, rfl, rfl, rfl⟩

/-! ## The invariant -/

theorem resetWith_inv {cfg : Config} {rom : List OpWord} (env : Env) (hcfg : cfg.wf) (hrom : Memory.wf rom) :
    (State.resetWith cfg rom env).Inv where
  params := hcfg
  romSize := hrom
  timer := Nat.two_pow_pos _
  reserved := BitVec.zero_and
  driver := fun h => absurd rfl h
  silent := fun _ => rfl
  index := fun h => nomatch h
  temp := fun h => nomatch h
  ph := fun h => nomatch h
  water := fun h => nomatch h
  frames := List.Pairwise.nil
  settled := fun _ h => nomatch h
  events := List.Pairwise.nil
  past := fun _ h => nomatch h
  running := fun _ => ⟨rfl, rfl⟩
  code := Nat.zero_le 5

/-- Settles O38: nothing has been written, sent or displayed at the release of reset. -/
theorem invariantHoldsAfterReset : Obligations.InvariantHoldsAfterReset :=
  ⟨fun _ _ env hcfg hrom => resetWith_inv env hcfg hrom, resetWith_inv Env.default (by decide) reset_rom_wf⟩

theorem raise_inv {s : State} (h : s.Inv) (c : HaltCause) (info : PcWord) : (s.raise c info).Inv :=
  { h with
    reserved := (statusHalted_reserved s.status).trans h.reserved
    running := fun hrun => by simp at hrun
    code := haltCode_le c }

theorem complete_inv {s : State} (h : s.Inv) (dur : Nat) (target : PcWord) : (s.complete dur target).Inv :=
  have later : s.tNs ≤ (s.complete dur target).tNs := (complete_grows s dur target).tNs
  { h with
    settled := fun f hf => (h.settled f hf).trans later
    past := fun e he => (h.past e he).trans later }

theorem flagIdxErr_inv {s : State} (h : s.Inv) : s.flagIdxErr.Inv :=
  { h with
    reserved := (statusIdxErr_reserved s.status).trans h.reserved
    running := fun hrun => h.running (s.flagIdxErr_halted ▸ hrun) }

theorem writePixel_inv {s : State} (h : s.Inv) (idx : Byte) (c : Pixel) : (s.writePixel idx c).Inv := by
  obtain ⟨-, hw⟩ | ⟨-, hw⟩ := s.writePixel_cases idx c
  · rw [hw]
    refine { h with driver := fun he => ?_ }
    obtain ⟨hrate, hpixels⟩ := h.driver he
    refine ⟨hrate, fun i => ?_⟩
    rw [pb_write_get]
    split
    · rfl
    · exact hpixels i
  · rw [hw]
    exact flagIdxErr_inv h

theorem readPixel_inv {s : State} (h : s.Inv) (idx : Byte) : (s.readPixel idx).Inv := by
  obtain ⟨_, hr⟩ | ⟨-, hr⟩ := s.readPixel_cases idx
  · rw [hr]
    exact { h with }
  · rw [hr]
    exact flagIdxErr_inv h

theorem clearPixels_written (s : State) (i : Fin 25) : s.clearPixels.pb[i].written = true := by
  rw [State.clearPixels_pb, pb_clear_get]
  rfl

theorem clearPixels_inv {s : State} (h : s.Inv) : s.clearPixels.Inv :=
  { h with driver := fun he => ⟨(h.driver he).1, clearPixels_written s⟩ }

/-- INIT's claim alone leaves the buffer unwritten: the invariant needs the zero-fill that comes with it (rule R130). -/
theorem claim_clearPixels_inv {s : State} (h : s.Inv) {e : Engine} (he : e ≠ .unclaimed) (pin : Byte) :
    (s.claim e pin).clearPixels.Inv :=
  { h with
    driver := fun _ => ⟨rfl, clearPixels_written _⟩
    silent := fun hun => absurd hun he }

/-- A register that receives a draw is in the draw's range. -/
theorem drawInto_register_range {w lo n hi : Nat} (d : Nat) (hn : lo + n = hi + 1) (hlo : lo ≤ hi) (hw : hi < 2 ^ w) :
    lo ≤ (BitVec.ofNat w (drawInto lo n d)).toNat ∧ (BitVec.ofNat w (drawInto lo n d)).toNat ≤ hi := by
  have hge := drawInto_ge lo n d
  have hlt := drawInto_lt lo d (n := n) (by omega)
  rw [toNat_ofNat_drawInto (by omega) (by omega)]
  omega

theorem drawIdx_inv {s : State} (h : s.Inv) : s.drawIdx.Inv :=
  { h with
    index := fun _ => by
      obtain ⟨-, hle⟩ := drawInto_register_range (w := 8) (lo := 0) (n := 25) (hi := 24) _ rfl (by decide) (by decide)
      exact hle }

theorem drawSensors_inv {s : State} (h : s.Inv) : s.drawSensors.Inv :=
  { h with
    temp := fun _ => drawInto_register_range _ rfl (by decide) (by decide)
    ph := fun _ => drawInto_register_range _ rfl (by decide) (by decide)
    water := fun _ => drawInto_register_range _ rfl (by decide) (by decide) }

theorem stampLast_inv {s : State} (h : s.Inv) : s.stampLast.Inv :=
  { h with timer := Nat.mod_lt _ (Nat.two_pow_pos _) }

theorem sendDisp_inv {s : State} (h : s.Inv) {e : DispEvent} (he : e.time = s.tNs) : (s.sendDisp e).Inv :=
  { h with
    events := List.pairwise_append.2 ⟨h.events, List.pairwise_singleton _ e, fun d hd e' he' => by
      rw [List.mem_singleton.1 he', he]
      exact h.past d hd⟩
    past := fun d hd => by
      obtain hd | hd := List.mem_append.1 hd
      · exact h.past d hd
      · rw [List.mem_singleton.1 hd]
        exact he.le }

/-- A frame breaks `settled` until the operation that sends it has completed: WRITE's frame starts after every frame sent
before it and is over, gap and all, when WRITE ends (rules R74, R75, R134). -/
theorem emitFrame_complete_inv {s : State} (h : s.Inv) (he : s.eng ≠ .unclaimed) (target : PcWord) :
    ((s.emitFrame (s.tNs + s.overhead)).complete (Config.frameNs + Config.gapNs) target).Inv :=
  { complete_inv h (Config.frameNs + Config.gapNs) target with
    silent := fun hun => absurd hun he
    frames := List.pairwise_append.2 ⟨h.frames, List.pairwise_singleton _ _, fun f hf g hg => by
      rw [List.mem_singleton.1 hg]
      exact (h.settled f hf).trans (Nat.le_add_right _ _)⟩
    settled := fun f hf => by
      obtain hf | hf := List.mem_append.1 hf
      · exact (complete_inv h (Config.frameNs + Config.gapNs) target).settled f hf
      · rw [List.mem_singleton.1 hf]
        show s.tNs + s.overhead + 850000 ≤ s.tNs + 850000 + s.overhead
        omega }

/-- Every effect but WRITE's keeps the invariant before the operation completes. -/
theorem effect_inv {i : Instr} {s u : State} (hi : i ≠ .write) (h : s.Inv) (hu : Effect i s u) : u.Inv := by
  cases i with
  | init pin =>
    obtain ⟨-, e, hf, rfl⟩ := hu
    exact claim_clearPixels_inv h (freeEngine_some hf).2 pin
  | set idx r g b => exact hu ▸ writePixel_inv h idx _
  | setx r g b => exact hu ▸ writePixel_inv h s.idxValue _
  | clear => exact hu ▸ clearPixels_inv h
  | write => exact absurd rfl hi
  | get idx => exact hu ▸ readPixel_inv h idx
  | rand => exact hu ▸ drawIdx_inv h
  | tstamp => exact hu ▸ stampLast_inv h
  | halt => exact hu.elim
  | sgen => exact hu ▸ drawSensors_inv h
  | dclr => exact hu ▸ sendDisp_inv h rfl
  | dtext n => exact hu ▸ sendDisp_inv h rfl
  | drend => exact hu ▸ sendDisp_inv h rfl
  | hold _ | bnp _ _ | bnd _ _ | jmp _ => exact hu ▸ h

theorem exec_inv {i : Instr} {s t : State} (h : s.Inv) (ht : exec i s = .next t) : t.Inv := by
  obtain ⟨c, -, rfl⟩ | ⟨u, hu, rfl⟩ := exec_cases ht
  · exact raise_inv h c s.pc
  · by_cases hi : i = .write
    · subst hi
      obtain ⟨he, rfl⟩ := hu
      exact emitFrame_complete_inv h he _
    · exact complete_inv (effect_inv hi h hu) _ _

theorem step_inv {s t : State} (h : s.Inv) (ht : step s = .next t) : t.Inv := by
  obtain ⟨-, rfl⟩ | ⟨-, -, rfl⟩ | ⟨-, w, -, ⟨-, rfl⟩ | ⟨i, -, hi⟩⟩ := step_cases ht
  · exact h
  · exact raise_inv h _ s.pc
  · exact raise_inv h _ s.pc
  · exact exec_inv h hi

/-- Settles O39: a halt keeps the invariant, and an operation keeps it in two parts, its effect and its completion, which
only WRITE needs together. -/
theorem everyStepKeepsTheInvariant : Obligations.EveryStepKeepsTheInvariant := fun _ _ => step_inv

end Sys2Proof.Machine
end

section
/-! SUPPORT. The memory (spec/20_memory.md): pixels read back through GET and through the frame-byte view, DOUT in and
between frames, the frames of a run, and the sampling of the buttons. -/

namespace Sys2Proof.Machine

/-! ## Pixels read back by GET (rule R70) -/

theorem exec_set_pb {s t : State} {i r g b : Byte} (hi : i.toNat ≤ 24) (h : exec (.set i r g b) s = .next t) :
    t.pb = s.pb.setIfInBounds i.toNat (written ⟨r, g, b⟩) := by
  cases h
  rw [State.writePixel_of_le s _ hi]
  rfl

theorem exec_clear_pb {s t : State} (h : exec .clear s = .next t) :
    t.pb = Vector.replicate 25 (written Config.colBlack) := by
  cases h
  rfl

/-- GET of a pixel that holds `p`, written, leaves `{r, g, b}` of `p` in RDATA. -/
theorem exec_get_rdata_of_written {t u : State} {j : Byte} (hj : j.toNat < 25) {p : Pixel}
    (hp : t.pb[(⟨j.toNat, hj⟩ : Fin 25)] = written p) (h : exec (.get j) t = .next u) : u.rdata = p.rgb := by
  have hpix : t.pixel ⟨j.toNat, hj⟩ = p := by
    rw [State.pixel, hp, readReg_written]
  cases h
  rw [State.readPixel, dif_pos hj, hpix]
  rfl

theorem reg_eq_written {α : Type} {r : Reg α} (h : r.written = true) : r = written r.value := by
  cases r
  cases h
  rfl

/-- Settles O19: SET writes the one register of the buffer that its index names, and GET reads a written register. -/
theorem getAfterSetReturnsThePixel : Obligations.GetAfterSetReturnsThePixel := by
  intro s t u i j r g b hj hi hset hget
  have hpb := pb_write_get s.pb i.toNat ⟨r, g, b⟩ ⟨j.toNat, hj⟩
  rw [← exec_set_pb (by omega) hset] at hpb
  refine ⟨fun hji => ?_, fun hji hw => ?_⟩
  · rw [if_pos (congrArg BitVec.toNat hji)] at hpb
    exact (exec_get_rdata_of_written hj hpb hget).trans rfl
  · rw [if_neg fun h => hji (BitVec.eq_of_toNat_eq h)] at hpb
    exact exec_get_rdata_of_written hj (hpb.trans (reg_eq_written hw)) hget

/-- Settles O20: every register of the buffer is written and black after CLEAR. -/
theorem getAfterClearIsBlack : Obligations.GetAfterClearIsBlack := by
  intro s t u j hj hclear hget
  have hpb := pb_clear_get ⟨j.toNat, hj⟩ (written Config.colBlack)
  rw [← exec_clear_pb hclear] at hpb
  exact exec_get_rdata_of_written hj hpb hget

/-! ## The frame-byte view (rule R61) -/

/-- The pixel that a 3-byte write of `{g, r, b}` makes. -/
def pixelOfGrb (v : BitVec 24) : Pixel := ⟨v.extractLsb' 8 8, v.extractLsb' 16 8, v.extractLsb' 0 8⟩

theorem pixelOfGrb_bytes (g r b : Byte) : pixelOfGrb (g ++ r ++ b) = ⟨r, g, b⟩ := by
  simp only [pixelOfGrb, Pixel.mk.injEq]
  refine ⟨?_, ?_, BitVec.extractLsb'_append_eq_right⟩
  · rw [BitVec.extractLsb'_append_eq_of_le (by decide)]
    exact BitVec.extractLsb'_append_eq_right
  · rw [BitVec.extractLsb'_append_eq_of_le (by decide)]
    exact BitVec.extractLsb'_append_eq_left

theorem grb_pixelOfGrb (v : BitVec 24) : (pixelOfGrb v).grb = v := by
  show v.extractLsb' 16 8 ++ v.extractLsb' 8 8 ++ v.extractLsb' 0 8 = v
  rw [BitVec.extractLsb'_append_extractLsb'_eq_extractLsb' (show 16 = 8 + 8 from rfl),
    BitVec.extractLsb'_append_extractLsb'_eq_extractLsb' (show 8 = 0 + 8 from rfl)]
  exact BitVec.extractLsb'_eq_self

/-- `s` with pixel `i` written as `p`: what every access that writes a pixel leaves. -/
def State.setPixel (s : State) (i : Fin 25) (p : Pixel) : State :=
  { s with pb := s.pb.setIfInBounds i.val (written p) }

theorem State.memWrite3_eq_setPixel (s : State) (i : Fin 25) (v : BitVec 24) :
    s.memWrite3 (3 * i.val) v = some (s.setPixel i (pixelOfGrb v)) :=
  s.memWrite3_pixel i v

theorem State.setPixel_pb_get (s : State) (i : Fin 25) (p : Pixel) (j : Fin 25) :
    (s.setPixel i p).pb[j] = if j = i then written p else s.pb[j] := by
  simp only [State.setPixel, pb_write_get, Fin.ext_iff]

theorem State.setPixel_pixel_self (s : State) (i : Fin 25) (p : Pixel) : (s.setPixel i p).pixel i = p := by
  rw [State.pixel, State.setPixel_pb_get, if_pos rfl, readReg_written]

theorem State.setPixel_pixel_of_ne (s : State) {i j : Fin 25} (p : Pixel) (h : j ≠ i) :
    (s.setPixel i p).pixel j = s.pixel j := by
  rw [State.pixel, State.setPixel_pb_get, if_neg h]
  rfl

theorem State.frameByte_congr {s t : State} (k : Fin 75)
    (h : t.pixel ⟨k.val / 3, by omega⟩ = s.pixel ⟨k.val / 3, by omega⟩) : t.frameByte k = s.frameByte k := by
  rw [State.frameByte, State.frameByte, h]

/-- A pixel write changes no byte of the view but the pixel's three. -/
theorem State.setPixel_memRead1_of_outside (s : State) (i : Fin 25) (p : Pixel) {k : Nat}
    (hk : k < 3 * i.val ∨ 3 * i.val + 3 ≤ k) : (s.setPixel i p).memRead1 k = s.memRead1 k := by
  by_cases h : k < 75
  · have hne : (⟨k / 3, by omega⟩ : Fin 25) ≠ i := fun e => by
      have : k / 3 = i.val := congrArg Fin.val e
      omega
    rw [State.memRead1_of_lt _ h, State.memRead1_of_lt _ h]
    exact congrArg some (State.frameByte_congr _ (s.setPixel_pixel_of_ne p hne))
  · rw [State.memRead1_of_ge _ (by omega), State.memRead1_of_ge _ (by omega)]

/-- The addresses of the 3-byte accesses are those of the pixels. -/
theorem exists_pixel_of_aligned {a : Nat} (ha : a % 3 = 0) (hle : a + 3 ≤ 75) : ∃ i : Fin 25, a = 3 * i.val :=
  ⟨⟨a / 3, by omega⟩, by simp only; omega⟩

/-- Settles O21: each access of the view is an access to the pixel it belongs to. -/
theorem frameByteViewReadsWhatWasWritten : Obligations.FrameByteViewReadsWhatWasWritten := by
  refine ⟨fun s i hw => ?_, fun s i g r b => ?_, fun s k hk => s.memRead1_of_ge hk,
    fun s a v => ⟨fun hno => s.memAccess3_none v (by omega), fun ha hle => ?_⟩⟩
  · rw [s.memRead1_green, s.memRead1_red, s.memRead1_blue, s.memRead3_pixel, s.pixel_of_written i hw]
    exact ⟨rfl, rfl, rfl, rfl⟩
  · refine ⟨(s.setPixel i ⟨r, g, b⟩).pb, s.setPixel_pb_get i ⟨r, g, b⟩, ?_⟩
    rw [s.memWrite3_eq_setPixel, pixelOfGrb_bytes]
    rfl
  · obtain ⟨i, rfl⟩ := exists_pixel_of_aligned ha hle
    refine ⟨s.setPixel i (pixelOfGrb v), s.memWrite3_eq_setPixel i v, rfl, ?_,
      fun k _ hk => s.setPixel_memRead1_of_outside i _ hk⟩
    rw [State.memRead3_pixel, State.setPixel_pixel_self, grb_pixelOfGrb]

/-! ## DOUT (rules R63 to R67) -/

/-- A frame puts nothing on DOUT outside its 600 cells. -/
theorem Frame.high_of_outside (f : Frame) (c : Config) {τ : Nat} (h : τ < f.t0 ∨ f.t0 + 750000 ≤ τ) :
    f.high c τ = false :=
  decide_eq_false fun ⟨h1, h2, _⟩ => by
    have : τ < f.t0 + 750000 := h2
    omega

/-- In the cell of its bit `n` a frame is high for the bit's TH and no longer (rule R64). -/
theorem Frame.high_in_cell (f : Frame) (c : Config) {n d : Nat} (hn : n < 600) (hd : d < 1250) :
    f.high c (f.t0 + 1250 * n + d) = decide (d < highNs c (f.bit c.msbFirst n)) := by
  have hoff : f.t0 + 1250 * n + d - f.t0 = 1250 * n + d := by omega
  have hcell : (1250 * n + d) / 1250 = n := by omega
  have hpos : (1250 * n + d) % 1250 = d := by omega
  have hin : f.t0 ≤ f.t0 + 1250 * n + d ∧ f.t0 + 1250 * n + d < f.t0 + 750000 := by omega
  simp only [Frame.high, hoff, hcell, hpos, hin, true_and]

/-- Bit `n` of a frame is bit `n mod 8` of byte `n div 8` as it goes on the wire (rule R63). -/
theorem Frame.bit_eq (f : Frame) (msbFirst : Bool) {n : Nat} (hn : n < 600) :
    f.bit msbFirst n = wireBit msbFirst (f.bytes[n / 8]'(by omega)) (n % 8) := by
  rw [Frame.bit, Vector.getElem?_eq_getElem (by omega), Option.getD_some]

theorem State.dout_of_outside {s : State} {τ : Nat} (h : ∀ f ∈ s.wire, τ < f.t0 ∨ f.t0 + 750000 ≤ τ) :
    s.dout τ = false :=
  List.any_eq_false.2 fun f hf => by
    rw [f.high_of_outside s.cfg (h f hf)]
    exact Bool.false_ne_true

/-- Two frames are the same frame, or one starts after the other and its gap are over (rule R74). -/
theorem State.Inv.frames_apart {s : State} (h : s.Inv) {f g : Frame} (hf : f ∈ s.wire) (hg : g ∈ s.wire) :
    f = g ∨ f.t0 + 850000 ≤ g.t0 ∨ g.t0 + 850000 ≤ f.t0 :=
  List.Pairwise.forall_of_forall_of_flip (R := fun f g => f = g ∨ f.t0 + 850000 ≤ g.t0 ∨ g.t0 + 850000 ≤ f.t0)
    (fun _ _ => .inl rfl) (h.frames.imp fun hfg => .inr (.inl hfg)) (h.frames.imp fun hfg => .inr (.inr hfg)) hf hg

/-- While a frame or its gap lasts, DOUT carries that frame alone. -/
theorem State.Inv.dout_eq_high {s : State} (h : s.Inv) {f : Frame} (hf : f ∈ s.wire) {τ : Nat} (hstart : f.t0 ≤ τ)
    (hend : τ < f.t0 + 850000) : s.dout τ = f.high s.cfg τ := by
  rw [Bool.eq_iff_iff, State.dout, List.any_eq_true]
  refine ⟨fun ⟨g, hg, hhigh⟩ => ?_, fun hhigh => ⟨f, hf, hhigh⟩⟩
  obtain rfl | hapart := h.frames_apart hf hg
  · exact hhigh
  · rw [g.high_of_outside s.cfg (by omega)] at hhigh
    exact absurd hhigh Bool.false_ne_true

/-- Settles O41: DOUT carries the frame alone in its cells, and the frame's level there is the bit's pulse. -/
theorem bitCellsHaveTheirPulse : Obligations.BitCellsHaveTheirPulse := by
  intro s f n d hn hinv hf hd byte v
  rw [hinv.dout_eq_high hf (by omega) (by omega), f.high_in_cell s.cfg hn hd, f.bit_eq s.cfg.msbFirst hn]
  exact decide_eq_true_iff

/-- Settles O42: outside every frame nothing is high, and from T_NS on every frame is over. -/
theorem doutIsLowOutsideFrames : Obligations.DoutIsLowOutsideFrames := by
  intro s τ
  refine ⟨State.dout_of_outside, fun hinv hτ => State.dout_of_outside fun f hf => .inr ?_⟩
  have := hinv.settled f hf
  omega

/-! ## The frames of a run (rules R66, R74, R75) -/

theorem run_inv {n : Nat} {s t : State} (h : s.Inv) (hrun : Host.Core.run Sys2Proof.core n s = .next t) : t.Inv :=
  run_induction (P := State.Inv) (fun _ _ => step_inv) n s t h hrun

/-- Settles O40: the invariant spaces the frames, so in the gap after a frame DOUT carries that frame alone, which is
over. -/
theorem framesAreSequentialWithTheirGap : Obligations.FramesAreSequentialWithTheirGap := by
  intro s t n hs hrun
  have hinv := run_inv hs hrun
  refine ⟨hinv.frames, fun f hf τ hfrom hto => ?_⟩
  rw [hinv.dout_eq_high hf (by omega) (by omega)]
  exact f.high_of_outside t.cfg (.inr hfrom)

/-- `t` is `s` after a WRITE with an engine claimed (rule R134). -/
def SendsFrame (s t : State) : Prop :=
  s.eng ≠ .unclaimed ∧
    t = (s.emitFrame (s.tNs + s.overhead)).complete (Config.frameNs + Config.gapNs) (s.pc + 1)

theorem exec_wire_cases {i : Instr} {s t : State} (h : exec i s = .next t) :
    t.wire = s.wire ∨ SendsFrame s t := by
  by_cases hw : t.wire = s.wire
  · exact .inl hw
  · obtain rfl := (exec_changedByWriters h).wire hw
    obtain ⟨c, -, rfl⟩ | ⟨u, ⟨he, rfl⟩, rfl⟩ := exec_cases h
    · exact .inl rfl
    · exact .inr ⟨he, rfl⟩

theorem step_wire_cases {s t : State} (h : step s = .next t) :
    t.wire = s.wire ∨ SendsFrame s t := by
  obtain ⟨-, rfl⟩ | ⟨-, -, rfl⟩ | ⟨-, w, -, ⟨-, rfl⟩ | ⟨i, -, hi⟩⟩ := step_cases h
  · exact .inl rfl
  · exact .inl rfl
  · exact .inl rfl
  · exact exec_wire_cases hi

/-- Settles O43: only WRITE with an engine claimed sends a frame, and then every pixel of the buffer has been written. -/
theorem everyFrameIsAWholeBufferSnapshot : Obligations.EveryFrameIsAWholeBufferSnapshot := by
  intro s t hinv h
  obtain hw | ⟨he, rfl⟩ := step_wire_cases h
  · exact .inl hw
  · obtain ⟨-, hwritten⟩ := hinv.driver he
    refine .inr ⟨⟨s.tNs + s.overhead, s.frame⟩, rfl, rfl, Nat.le_add_right _ _, Nat.add_right_comm _ _ _,
      fun i => ?_⟩
    rw [← s.pixel_of_written i (hwritten i)]
    exact ⟨s.frame_green i, s.frame_red i, s.frame_blue i⟩

/-! ## The buttons (rules R34, R81) -/

/-- `s` with other schedules of the button pins. -/
def State.withButtons (s : State) (a b : List Edge) : State := { s with env := { s.env with btnA := a, btnB := b } }

theorem writePixel_withButtons (s : State) (a b : List Edge) (idx : Byte) (c : Pixel) :
    (s.withButtons a b).writePixel idx c = (s.writePixel idx c).withButtons a b := by
  obtain ⟨hi, hw⟩ | ⟨hi, hw⟩ := s.writePixel_cases idx c
  · rw [hw, State.writePixel_of_le _ c hi]
    rfl
  · rw [hw, State.writePixel_of_gt _ c hi]
    rfl

theorem readPixel_withButtons (s : State) (a b : List Edge) (idx : Byte) :
    (s.withButtons a b).readPixel idx = (s.readPixel idx).withButtons a b := by
  by_cases h : idx.toNat < 25
  · rw [State.readPixel, State.readPixel, dif_pos h, dif_pos h]
    rfl
  · rw [State.readPixel, State.readPixel, dif_neg h, dif_neg h]
    rfl

/-- No effect depends on the buttons. -/
theorem effect_withButtons {i : Instr} {s u : State} (a b : List Edge) (h : Effect i s u) :
    Effect i (s.withButtons a b) (u.withButtons a b) := by
  cases i with
  | init pin =>
    obtain ⟨he, e, hf, rfl⟩ := h
    exact ⟨he, e, hf, rfl⟩
  | set idx r g b' => exact h ▸ (writePixel_withButtons s a b idx _).symm
  | setx r g b' => exact h ▸ (writePixel_withButtons s a b s.idxValue _).symm
  | write =>
    obtain ⟨he, rfl⟩ := h
    exact ⟨he, rfl⟩
  | get idx => exact h ▸ (readPixel_withButtons s a b idx).symm
  | halt => exact h.elim
  | _ =>
    cases h
    rfl

section
variable {s : State} {a b : List Edge} (ha : levelAt a s.tNs = levelAt s.env.btnA s.tNs)
  (hb : levelAt b s.tNs = levelAt s.env.btnB s.tNs)
include ha hb

/-- BNP's sample sees the schedules at the start of the operation alone. -/
theorem notPressed_withButtons (sel : Byte) : (s.withButtons a b).notPressed sel = s.notPressed sel := by
  show levelAt (if sel = 0 then a else b) s.tNs = levelAt (if sel = 0 then s.env.btnA else s.env.btnB) s.tNs
  split
  · exact ha
  · exact hb

theorem nextPc_withButtons (i : Instr) : NextPc i (s.withButtons a b) = NextPc i s := by
  cases i with
  | bnp sel target =>
    rw [NextPc, NextPc, notPressed_withButtons ha hb]
    rfl
  | _ => rfl

theorem exec_withButtons {i : Instr} {t : State} (h : exec i s = .next t) :
    exec i (s.withButtons a b) = .next (t.withButtons a b) := by
  obtain ⟨c, hc, rfl⟩ | ⟨u, hu, rfl⟩ := exec_cases h
  · exact exec_of_halts (s := s.withButtons a b) hc
  · rw [exec_of_effect (effect_withButtons a b hu), nextPc_withButtons ha hb]
    rfl

theorem step_withButtons {t : State} (h : step s = .next t) :
    step (s.withButtons a b) = .next (t.withButtons a b) := by
  obtain ⟨hh, rfl⟩ | ⟨hh, hf, rfl⟩ | ⟨hh, w, hf, ⟨⟨r, hd⟩, rfl⟩ | ⟨i, hd, hi⟩⟩ := step_cases h
  · exact step_of_halted (s := t.withButtons a b) hh
  · exact step_of_fetch_none (s := s.withButtons a b) hh hf
  · exact step_of_illegal (s := s.withButtons a b) hh hf hd
  · rw [step_of_decoded (s := s.withButtons a b) hh hf hd]
    exact exec_withButtons ha hb hi

end

/-- Settles O49: a step takes the same case and the same effect under both schedules, and only BNP's sample, taken at the
start, looks at them. -/
theorem buttonsAreSampledOnlyAtTheStart : Obligations.ButtonsAreSampledOnlyAtTheStart :=
  fun _ _ _ _ ha hb h => step_withButtons ha hb h

end Sys2Proof.Machine
end

section
/-! SUPPORT. Encoding (spec/30_encoding.md): encoding and decoding are inverse to each other on the well-formed operations,
and the mask and match of the opcode map pick out the words of those operations. -/

namespace Sys2Proof

/-- `w` is the word of the operation `i`. -/
def IsWordOf (w : OpWord) (i : Instr) : Prop := i.WellFormed = true ∧ encode i = w

theorem isWordOf_of_fields {w : OpWord} {i : Instr} (hwf : i.WellFormed = true) (hop : opOf w = i.opcode)
    (hx : i.operandBits = restOf w) : IsWordOf w i :=
  ⟨hwf, encode_eq_of_fields hop.symm hx⟩

/-- Format Z. -/
theorem isWordOf_of_noOperand {w : OpWord} {i : Instr} (hwf : i.WellFormed = true) (hi : i.operandBits = 0)
    (hop : opOf w = i.opcode) (hx : restOf w = 0) : IsWordOf w i :=
  isWordOf_of_fields hwf hop (hi.trans hx.symm)

/-! ## Operand bits rebuilt from the fields a format leaves free (rule R101) -/

/-- Format N. -/
theorem number_fields {x : BitVec 32} (h : x.extractLsb' 8 24 = 0#24) : 0#24 ++ fieldD x = x := by
  simpa only [h] using lowByte_fields x

/-- Format P of SETX. -/
theorem colour_fields {x : BitVec 32} (h : fieldA x = 0#8) : 0#8 ++ fieldB x ++ fieldC x ++ fieldD x = x := by
  simpa only [h] using bytes_fields x

/-- Format P of GET. -/
theorem index_fields {x : BitVec 32} (h : x.extractLsb' 0 24 = 0#24) : fieldA x ++ 0#24 = x := by
  simpa only [h] using highByte_fields x

/-- Format B of BNP. -/
theorem branch_fields {x : BitVec 32} (h : fieldB x = 0#8) : fieldA x ++ 0#8 ++ fieldTarget x = x := by
  simpa only [← fieldMs_bytes, h] using halves_fields x

/-- Format B of JMP. -/
theorem target_fields {x : BitVec 32} (h : fieldMs x = 0#16) : 0#16 ++ fieldTarget x = x := by
  simpa only [h] using halves_fields x

/-! ## Round trips -/

theorem decode_encode {i : Instr} (h : i.WellFormed = true) : decode (encode i) = .ok i := by
  cases i with
  | bnp sel target =>
    have hs : sel.toNat ≤ 1 := of_decide_eq_true h
    simp [decode, decodeBnp, encode, Instr.opcode, Instr.operandBits, hs]
  | dtext line =>
    have hn : line.toNat ≤ 2 := of_decide_eq_true h
    simp [decode, decodeDtext, encode, Instr.opcode, Instr.operandBits, hn]
  | _ => simp [decode, encode, Instr.opcode, Instr.operandBits]

/-- What a check of MBZ fields answers is the word's operation, if it is so whenever those fields are zero. -/
theorem isWordOf_of_whenZero {α : Type} [BEq α] [LawfulBEq α] {a b : α} {op : Byte} {w : OpWord} {i j : Instr}
    (h : whenZero (a == b) op i = .ok j) (hi : a = b → IsWordOf w i) : IsWordOf w j := by
  obtain ⟨hz, rfl⟩ := whenZero_ok h
  exact hi (eq_of_beq hz)

/-- The operation a word decodes to, by the decoder's rows. -/
theorem isWordOf_of_decode {w : OpWord} {i : Instr} (h : decode w = .ok i) : IsWordOf w i := by
  unfold decode at h
  split at h
  case h_1 hop => exact isWordOf_of_whenZero h fun hz => isWordOf_of_fields rfl hop (number_fields hz)
  case h_2 hop =>
    cases h
    exact isWordOf_of_fields rfl hop (bytes_fields _)
  case h_3 hop => exact isWordOf_of_whenZero h fun hz => isWordOf_of_fields rfl hop (colour_fields hz)
  case h_6 hop => exact isWordOf_of_whenZero h fun hz => isWordOf_of_fields rfl hop (index_fields hz)
  case h_7 hop =>
    cases h
    exact isWordOf_of_fields rfl hop rfl
  case h_9 hop =>
    obtain ⟨rfl, hs, hz⟩ := decodeBnp_ok h
    exact isWordOf_of_fields (decide_eq_true hs) hop (branch_fields hz)
  case h_10 hop =>
    cases h
    exact isWordOf_of_fields rfl hop (halves_fields _)
  case h_11 hop => exact isWordOf_of_whenZero h fun hz => isWordOf_of_fields rfl hop (target_fields hz)
  case h_16 hop =>
    obtain ⟨rfl, hn, hz⟩ := decodeDtext_ok h
    exact isWordOf_of_fields (decide_eq_true hn) hop (number_fields hz)
  case h_18 => cases h
  all_goals
    next hop => exact isWordOf_of_whenZero h fun hz => isWordOf_of_noOperand rfl rfl hop hz

theorem decode_eq_ok_iff {w : OpWord} {i : Instr} : decode w = .ok i ↔ IsWordOf w i := by
  constructor
  · exact isWordOf_of_decode
  · rintro ⟨hwf, rfl⟩
    exact decode_encode hwf

/-! ## The words a row of the opcode map accepts (rule R103) -/

/-- A row checks the whole opcode. -/
theorem opOf_of_accepts {row : OpRow} {w : OpWord} (hrow : row ∈ opTable) (h : row.Accepts w) : opOf w = row.op := by
  have table : ∀ row ∈ opTable, opOf row.mask = BitVec.allOnes 8 ∧ opOf row.matchBits = row.op := by decide
  obtain ⟨hmask, hmatch⟩ := table row hrow
  calc opOf w = opOf w &&& opOf row.mask := by rw [hmask, BitVec.and_allOnes]
    _ = opOf row.matchBits := by rw [← h]; exact BitVec.extractLsb'_and.symm
    _ = row.op := hmatch

/-- An operand bit in a row's mask is zero in every word the row accepts. -/
theorem restOf_and_mask {row : OpRow} {w : OpWord} (hrow : row ∈ opTable) (h : row.Accepts w) :
    restOf w &&& restOf row.mask = 0 := by
  have table : ∀ row ∈ opTable, restOf row.matchBits = 0 := by decide
  rw [← table row hrow, ← h]
  exact BitVec.extractLsb'_and.symm

theorem eq_zero_of_and_allOnes {n : Nat} {x : BitVec n} (h : x &&& BitVec.allOnes n = 0) : x = 0 :=
  BitVec.and_allOnes.symm.trans h

theorem field_eq_zero {x m : BitVec 32} {a n : Nat} (h : x &&& m = 0)
    (hm : m.extractLsb' a n = BitVec.allOnes n) : x.extractLsb' a n = 0#n := by
  rw [← BitVec.and_allOnes (x := x.extractLsb' a n), ← hm, ← BitVec.extractLsb'_and, h]
  exact BitVec.extractLsb'_zero

/-- BNP's mask leaves the low bit of `sel` free. -/
theorem selector_le_one {x : BitVec 32} (h : x.extractLsb' 25 7 = 0#7) : (fieldA x).toNat ≤ 1 := by
  have h7 := congrArg BitVec.toNat h
  simp only [BitVec.extractLsb'_toNat, Nat.shiftRight_eq_div_pow, BitVec.toNat_ofNat] at h7
  simp only [fieldA, BitVec.extractLsb'_toNat, Nat.shiftRight_eq_div_pow]
  omega

/-- Whatever a row accepts is the word of one of its operations, but for DTEXT with `n = 3`. -/
theorem exists_isWordOf_of_accepts {row : OpRow} {w : OpWord} (hrow : row ∈ opTable) (h : row.Accepts w)
    (hn : row.op = 0x22 → (w.extractLsb' 0 8).toNat ≤ 2) : ∃ i, IsWordOf w i := by
  have hop := opOf_of_accepts hrow h
  have hx := restOf_and_mask hrow h
  have field {a n : Nat} := field_eq_zero (a := a) (n := n) hx
  simp only [opTable, List.mem_cons, List.not_mem_nil, or_false] at hrow
  rcases hrow with rfl | rfl | rfl | rfl | rfl | rfl | rfl | rfl | rfl | rfl | rfl | rfl | rfl | rfl | rfl | rfl | rfl
  · exact ⟨.init _, isWordOf_of_fields rfl hop (number_fields (field (by decide)))⟩
  · exact ⟨.set _ _ _ _, isWordOf_of_fields rfl hop (bytes_fields _)⟩
  · exact ⟨.setx _ _ _, isWordOf_of_fields rfl hop (colour_fields (field (by decide)))⟩
  · exact ⟨.clear, isWordOf_of_noOperand rfl rfl hop (eq_zero_of_and_allOnes hx)⟩
  · exact ⟨.write, isWordOf_of_noOperand rfl rfl hop (eq_zero_of_and_allOnes hx)⟩
  · exact ⟨.get _, isWordOf_of_fields rfl hop (index_fields (field (by decide)))⟩
  · exact ⟨.hold _, isWordOf_of_fields rfl hop rfl⟩
  · exact ⟨.rand, isWordOf_of_noOperand rfl rfl hop (eq_zero_of_and_allOnes hx)⟩
  · have hs := selector_le_one (field (by decide))
    exact ⟨.bnp _ _, isWordOf_of_fields (decide_eq_true hs) hop (branch_fields (field (by decide)))⟩
  · exact ⟨.bnd _ _, isWordOf_of_fields rfl hop (halves_fields _)⟩
  · exact ⟨.jmp _, isWordOf_of_fields rfl hop (target_fields (field (by decide)))⟩
  · exact ⟨.tstamp, isWordOf_of_noOperand rfl rfl hop (eq_zero_of_and_allOnes hx)⟩
  · exact ⟨.halt, isWordOf_of_noOperand rfl rfl hop (eq_zero_of_and_allOnes hx)⟩
  · exact ⟨.dclr, isWordOf_of_noOperand rfl rfl hop (eq_zero_of_and_allOnes hx)⟩
  · exact ⟨.sgen, isWordOf_of_noOperand rfl rfl hop (eq_zero_of_and_allOnes hx)⟩
  · have hline : (fieldD (restOf w)).toNat ≤ 2 := by
      rw [fieldD, restOf_extract w 0 8 (by decide)]
      exact hn rfl
    exact ⟨.dtext _, isWordOf_of_fields (decide_eq_true hline) hop (number_fields (field (by decide)))⟩
  · exact ⟨.drend, isWordOf_of_noOperand rfl rfl hop (eq_zero_of_and_allOnes hx)⟩

/-- The word of an operation is accepted by the row of its opcode. -/
theorem exists_row_of_isWordOf {w : OpWord} {i : Instr} (h : IsWordOf w i) :
    ∃ row ∈ opTable, row.op = i.opcode ∧ row.Accepts w := by
  obtain ⟨hwf, rfl⟩ := h
  suffices Laws.OpcodeRow.Statement i from this hwf
  cases i with
  | init pin => exact Laws.OpcodeRow.init pin
  | set idx r g b => exact Laws.OpcodeRow.set idx r g b
  | setx r g b => exact Laws.OpcodeRow.setx r g b
  | clear => exact Laws.OpcodeRow.clear
  | write => exact Laws.OpcodeRow.write
  | get idx => exact Laws.OpcodeRow.get idx
  | hold imm => exact Laws.OpcodeRow.hold imm
  | rand => exact Laws.OpcodeRow.rand
  | bnp sel target => exact Laws.OpcodeRow.bnp sel target
  | bnd ms target => exact Laws.OpcodeRow.bnd ms target
  | jmp target => exact Laws.OpcodeRow.jmp target
  | tstamp => exact Laws.OpcodeRow.tstamp
  | halt => exact Laws.OpcodeRow.halt
  | dclr => exact Laws.OpcodeRow.dclr
  | sgen => exact Laws.OpcodeRow.sgen
  | dtext line => exact Laws.OpcodeRow.dtext line
  | drend => exact Laws.OpcodeRow.drend

theorem opOf_of_isWordOf {w : OpWord} {i : Instr} (h : IsWordOf w i) : opOf w = i.opcode := by
  obtain ⟨-, rfl⟩ := h
  exact opOf_mkWord _ _

/-- A well-formed operation with DTEXT's opcode is DTEXT, whose line is the word's low byte. -/
theorem line_le_two_of_isWordOf {w : OpWord} {i : Instr} (h : IsWordOf w i) (hop : i.opcode = 0x22) :
    (w.extractLsb' 0 8).toNat ≤ 2 := by
  cases i with
  | dtext line =>
    obtain ⟨hwf, rfl⟩ := h
    have hline : fieldD (restOf (encode (.dtext line))) = line := by simp [encode, Instr.operandBits]
    rw [← restOf_extract _ 0 8 (by decide), ← fieldD, hline]
    exact of_decide_eq_true hwf
  | _ => exact absurd hop (by simp [Instr.opcode])

theorem OpRow.eq_of_op_eq {row row' : OpRow} (hrow : row ∈ opTable) (hrow' : row' ∈ opTable) (h : row.op = row'.op) :
    row = row' := by
  have table : ∀ row ∈ opTable, ∀ row' ∈ opTable, row.op = row'.op → row = row' := by decide
  exact table row hrow row' hrow' h

/-! ## The statements of the family -/

/-- Settles O2: the decoder reads each field where the encoder put it. -/
theorem decodeEncodeAgree : Obligations.DecodeEncodeAgree := fun _ => decode_encode

/-- Settles O3: every row of the decoder reads the fields that make up the word again. -/
theorem encodeDecodeAgree : Obligations.EncodeDecodeAgree := fun _ _ => isWordOf_of_decode

/-- Settles O4: both sides say that the word is that of a well-formed operation with opcode `op`. -/
theorem decodeFollowsOpcodeMap : Obligations.DecodeFollowsOpcodeMap := by
  intro w op
  simp only [decode_eq_ok_iff]
  constructor
  · rintro ⟨i, hi, rfl⟩
    obtain ⟨row, hrow, hop, hacc⟩ := exists_row_of_isWordOf hi
    exact ⟨row, hrow, hop, hacc, line_le_two_of_isWordOf hi⟩
  · rintro ⟨row, hrow, rfl, hacc, hn⟩
    obtain ⟨i, hi⟩ := exists_isWordOf_of_accepts hrow hacc hn
    exact ⟨i, hi, (opOf_of_isWordOf hi).symm.trans (opOf_of_accepts hrow hacc)⟩

/-- Settles O5: a row that accepts a word has the word's opcode, and no two rows have one opcode. -/
theorem opcodeRowsAreDisjoint : Obligations.OpcodeRowsAreDisjoint := by
  intro w row row' hrow hrow' h h'
  exact OpRow.eq_of_op_eq hrow hrow' ((opOf_of_accepts hrow h).symm.trans (opOf_of_accepts hrow' h'))

/-- Settles O1: each word is evaluated. -/
theorem sampleWordsDecode : Obligations.SampleWordsDecode := by
  unfold Obligations.SampleWordsDecode
  decide

end Sys2Proof
end

section
/-! SUPPORT. The driver operations (spec/40_driver_ops.md): INIT, SET, SETX, CLEAR, WRITE and GET, each with what it changes,
how it completes and when it halts. -/

namespace Sys2Proof.Machine

/-! ## Completing with an effect -/

/-- An operation with an effect completes with it, in its duration and the overhead of the state it completes from. -/
theorem completesWith_of_effect {i : Instr} {s u : State} (h : Effect i s u) :
    CompletesWith i s (nominalNs i) (NextPc i s) u := by
  have hf := effect_frame h
  refine ⟨u.overhead, hf.cfg ▸ u.overhead_le, ?_⟩
  rw [exec_of_effect h, State.complete, hf.tNs]

theorem exists_freeEngine {s : State} (h : s.env.teAvail0 = true ∨ s.env.teAvail1 = true) :
    ∃ e, s.freeEngine = some e := by
  refine Option.ne_none_iff_exists'.1 fun hnone => ?_
  obtain ⟨h0, h1⟩ := freeEngine_none.1 hnone
  simp [h0, h1] at h

/-! ## The operations that write pixels (rules R131, R132) -/

/-- Completion of an operation whose effect is to write `c` to pixel `idx`: the pixel is written or the index rejected. -/
theorem completesWith_writePixel {i : Instr} {s : State} {idx : Byte} {c : Pixel} {dur : Nat} {next : PcWord}
    (h : CompletesWith i s dur next (s.writePixel idx c)) :
    (idx.toNat ≤ 24 →
      ∃ pb : Vector (Reg Pixel) 25, (∀ j : Fin 25, pb[j] = if j.val = idx.toNat then written c else s.pb[j]) ∧
        CompletesWith i s dur next { s with pb := pb }) ∧
    (24 < idx.toNat → CompletesWith i s dur next { s with status := s.status ||| 0x02 }) := by
  refine ⟨fun hle => ⟨_, pb_write_get s.pb idx.toNat c, ?_⟩, fun hgt => ?_⟩
  · rwa [s.writePixel_of_le c hle] at h
  · rwa [s.writePixel_of_gt c hgt] at h

theorem State.idxValue_of_written {s : State} (h : s.idx.written = true) : s.idxValue = s.idx.value :=
  readReg_of_written _ h

/-! ## The statements of the family -/

/-- Settles O17: WRITE sends the frame whose bytes are the channels of the pixels, and the duration of the operation is the
frame's and the gap's. -/
theorem writeSendsOneFrameOrHalts : Obligations.WriteSendsOneFrameOrHalts := by
  refine fun s => ⟨fun he => ⟨s.overhead, s.overhead_le, s.frame, fun i hw => ?_, ?_⟩,
    fun he => exec_of_halts (.inr (.inr (.inl ⟨rfl, he, rfl⟩)))⟩
  · rw [← s.pixel_of_written i hw]
    exact ⟨s.frame_green i, s.frame_red i, s.frame_blue i⟩
  · have heffect : Effect .write s (s.emitFrame (s.tNs + s.overhead)) := ⟨he, rfl⟩
    have htime : s.tNs + 850000 + s.overhead = s.tNs + s.overhead + 750000 + 100000 := by omega
    rw [exec_of_effect heffect, ← htime]
    rfl

/-- Settles O13: the effect of INIT needs a free engine and none claimed; its two faults are the other cases. -/
theorem initClaimsAnEngineOrHalts : Obligations.InitClaimsAnEngineOrHalts := by
  refine fun s pin => ⟨fun he hfree => ⟨_, fun j => pb_clear_get j (written Config.colBlack), ?_⟩,
    fun he h0 h1 => exec_of_halts (.inr (.inl ⟨rfl, he, h0, h1, pin, rfl⟩)),
    fun he => exec_of_halts (.inr (.inr (.inr ⟨rfl, he, pin, rfl⟩)))⟩
  obtain ⟨e, hsome⟩ := exists_freeEngine hfree
  rw [← (freeEngine_some hsome).1]
  exact completesWith_of_effect (i := .init pin) ⟨he, e, hsome, rfl⟩

/-- Settles O14: the effect of SET is a pixel write. -/
theorem setWritesOnePixelOrRejects : Obligations.SetWritesOnePixelOrRejects := fun _ idx r g b =>
  completesWith_writePixel (completesWith_of_effect (i := .set idx r g b) rfl)

/-- Settles O15: the effect of SETX is a pixel write at the index that IDX reads as. -/
theorem setxWritesThePixelAtIdx : Obligations.SetxWritesThePixelAtIdx := fun s r g b =>
  ⟨s.idxValue, State.idxValue_of_written,
    completesWith_writePixel (completesWith_of_effect (i := .setx r g b) rfl)⟩

/-- Settles O16: the effect of CLEAR writes black to every register of the buffer. -/
theorem clearBlackensEveryPixel : Obligations.ClearBlackensEveryPixel := fun _ =>
  ⟨_, fun j => pb_clear_get j (written Config.colBlack), completesWith_of_effect (i := .clear) rfl⟩

/-- Settles O18: the effect of GET is a pixel read, which copies the pixel to RDATA or rejects the index. -/
theorem getReadsThePixelOrRejects : Obligations.GetReadsThePixelOrRejects := by
  intro s idx
  have hget : CompletesWith (.get idx) s 0 (s.pc + 1) (s.readPixel idx) := completesWith_of_effect (i := .get idx) rfl
  obtain ⟨hlt, hread⟩ | ⟨hgt, hread⟩ := s.readPixel_cases idx
  · rw [hread] at hget
    exact ⟨fun _ => ⟨s.pixel ⟨idx.toNat, hlt⟩, s.pixel_of_written ⟨idx.toNat, hlt⟩, hget⟩,
      fun hgt => absurd hlt (by omega)⟩
  · rw [hread] at hget
    exact ⟨fun hlt => absurd hlt (by omega), fun _ => hget⟩

end Sys2Proof.Machine
end

section
/-! SUPPORT. The sequencer operations (spec/41_sequencer_ops.md): the step that runs the word at PC, and HOLD, RAND, BNP, BND,
JMP, TSTAMP and HALT. -/

namespace Sys2Proof.Machine

/-! ## The word at PC (rules R78, R150) -/

/-- Settles O6: the word at PC is what is fetched. -/
theorem stepRunsDecodedInstruction : Obligations.StepRunsDecodedInstruction := fun _ _ _ hrun hword hdecode =>
  step_of_decoded hrun hword hdecode

theorem withFetchWord_fetch (s : State) (nbits w : Nat) :
    (s.withFetchWord nbits w).fetch = some (BitVec.ofNat 40 (w % 2 ^ nbits)) :=
  romWith_get_self s.rom s.pc.toNat _

/-- The decoder of the table reads a number of at most 40 bits as the word of these bits. -/
theorem decode_of_decodeTableWord {nbits w : Nat} {i : Instr} (h : decodeTableWord nbits w = some i) :
    w < 2 ^ 40 ∧ decode (BitVec.ofNat 40 w) = .ok i := by
  unfold decodeTableWord at h
  split at h
  case isTrue hbits =>
    cases hd : decode (BitVec.ofNat 40 w) with
    | error r => simp [hd, Except.toOption] at h
    | ok j =>
      simp only [hd, Except.toOption, Option.some.injEq] at h
      exact ⟨hbits.2, congrArg Except.ok h⟩
  case isFalse => cases h

/-- Settles O10: the placed word is the one fetched, and the other words of the ROM are not touched. -/
theorem placedWordIsRunNext : Obligations.PlacedWordIsRunNext := by
  intro s w i hrun hdecode
  obtain ⟨hlt, hok⟩ := decode_of_decodeTableWord hdecode
  have hfetch : (s.withFetchWord 40 w).fetch = some (BitVec.ofNat 40 w) := by
    rw [withFetchWord_fetch, Nat.mod_eq_of_lt hlt]
  exact ⟨step_of_decoded hrun hfetch hok, rfl, fun a ha hne => romWith_get_other s.rom s.pc.toNat a _ ha hne⟩

/-! ## Waiting and drawing (rules R151, R152) -/

/-- Settles O22: the overhead of HOLD is a natural number, below one millisecond by rule R6's bound on OP_MAX_NS. -/
theorem holdWaitsItsMilliseconds : Obligations.HoldWaitsItsMilliseconds := by
  intro s imm
  have hhold : CompletesWith (.hold imm) s (imm.toNat * 1000000) (s.pc + 1) s :=
    completesWith_of_effect (i := .hold imm) rfl
  refine ⟨hhold, fun t ⟨hmax, _⟩ h => ?_⟩
  obtain ⟨o, ho, hexec⟩ := hhold
  have htime : s.tNs + imm.toNat * 1000000 + o = t.tNs := congrArg State.tNs (Host.Outcome.next.inj (hexec.symm.trans h))
  omega

theorem State.drawIdx_idx_le (s : State) : s.drawIdx.idx.value.toNat ≤ 24 :=
  (drawInto_register_range (w := 8) (lo := 0) (n := 25) (hi := 24) _ rfl (by decide) (by decide)).2

/-- Settles O23: the effect of RAND writes its draw to IDX and takes it from the queue. -/
theorem randDrawsAnIndex : Obligations.RandDrawsAnIndex := fun s =>
  ⟨_, s.env.indices.tail, s.drawIdx_idx_le, completesWith_of_effect (i := .rand) rfl⟩

/-! ## Branches (rules R153, R154, R155, R158) -/

/-- Settles O24: BNP goes on where its one sample says, and has no other effect. -/
theorem bnpBranchesWhenNotPressed : Obligations.BnpBranchesWhenNotPressed := fun _ sel target _ =>
  completesWith_of_effect (i := .bnp sel target) rfl

theorem State.notDue_iff (s : State) (ms : BitVec 16) : s.notDue ms = true ↔ s.elapsedMs < ms.toNat :=
  decide_eq_true_iff

theorem nextPc_bnd (s : State) (ms : BitVec 16) (target : PcWord) :
    NextPc (.bnd ms target) s = if s.elapsedMs < ms.toNat then target else s.pc + 1 := by
  simp only [NextPc, s.notDue_iff]

/-- Settles O25: BND goes on where the elapsed time says, and has no other effect. -/
theorem bndBranchesWhenNotDue : Obligations.BndBranchesWhenNotDue := by
  intro s ms target
  have hbnd : CompletesWith (.bnd ms target) s 0 (NextPc (.bnd ms target) s) s := completesWith_of_effect rfl
  rwa [nextPc_bnd] at hbnd

/-- The modular difference is the plain one where nothing has wrapped (rules R7, R158 (4)). -/
theorem subMod_of_le {n a b : Nat} (hle : b ≤ a) (hlt : a < 2 ^ n) : subMod n a b = a - b := by
  rw [subMod, Nat.sub_add_comm hle, Nat.add_mod_right, Nat.mod_eq_of_lt (by omega)]

theorem State.elapsedMs_of_le {s : State} (hwrap : s.tNs / 1000000 < 2 ^ s.cfg.timerBits)
    (hlast : s.last ≤ s.tNs / 1000000) : s.elapsedMs = s.tNs / 1000000 - s.last := by
  rw [State.elapsedMs, State.nowMs, Nat.mod_eq_of_lt hwrap, subMod_of_le hlast hwrap]

/-- Where BND with another target than the next word goes on to the next word. -/
theorem bnd_falls_through_iff {s t : State} {ms : BitVec 16} {target : PcWord} (hne : target ≠ s.pc + 1)
    (h : exec (.bnd ms target) s = .next t) : t.pc = s.pc + 1 ↔ ms.toNat ≤ s.elapsedMs := by
  obtain ⟨_, -, hexec⟩ : CompletesWith (.bnd ms target) s 0 (NextPc (.bnd ms target) s) s := completesWith_of_effect rfl
  have hpc : NextPc (.bnd ms target) s = t.pc := congrArg State.pc (Host.Outcome.next.inj (hexec.symm.trans h))
  rw [← hpc, nextPc_bnd]
  split
  case isTrue hlt => exact iff_of_false hne (by omega)
  case isFalse hge => exact iff_of_true rfl (by omega)

/-- Settles O26: the elapsed time that BND compares is the plain difference. -/
theorem elapsedTimeIsPlainBeforeTheWrap : Obligations.ElapsedTimeIsPlainBeforeTheWrap := by
  intro s t ms target hne hwrap hlast h
  rw [bnd_falls_through_iff hne h, State.elapsedMs_of_le hwrap hlast]
  omega

/-- Settles O28: JMP goes on at its target, and has no other effect. -/
theorem jmpGoesToItsTarget : Obligations.JmpGoesToItsTarget := fun _ target =>
  completesWith_of_effect (i := .jmp target) rfl

/-! ## The Refresh Timer and the end (rules R156, R157) -/

/-- Settles O29: the effect of TSTAMP stores the NOW_MS of the state it starts in. -/
theorem tstampStoresNowMs : Obligations.TstampStoresNowMs := fun _ =>
  completesWith_of_effect (i := .tstamp) rfl

/-- Settles O30: HALT halts the machine as a fault does, with code 0, so PC and the time stay. -/
theorem haltStopsForGood : Obligations.HaltStopsForGood := fun _ =>
  exec_of_halts (.inl ⟨rfl, rfl⟩)

end Sys2Proof.Machine
end

section
/-! SUPPORT. The refresh operations (spec/42_display_ops.md): DCLR, SGEN, DTEXT and DREND, what each sends or draws, and that
none of them reaches the buffer or the wire. -/

namespace Sys2Proof.Machine

/-! ## The LED branch of the state (rule R174) -/

/-- What the LED branch of the hardware holds is the same in `s` and `t`: the buffer, the engine, the Refresh Timer, STATUS,
and the frames sent with the parameters that give them their waveform. -/
structure LedFrame (s t : State) : Prop where
  pb : t.pb = s.pb
  eng : t.eng = s.eng
  last : t.last = s.last
  status : t.status = s.status
  wire : t.wire = s.wire
  cfg : t.cfg = s.cfg

theorem LedFrame.refl (s : State) : LedFrame s s := ⟨rfl, rfl, rfl, rfl, rfl, rfl⟩

theorem sendDisp_led (s : State) (e : DispEvent) : LedFrame s (s.sendDisp e) := { LedFrame.refl s with }

theorem drawSensors_led (s : State) : LedFrame s s.drawSensors := { LedFrame.refl s with }

theorem LedFrame.complete {s u : State} (h : LedFrame s u) (dur : Nat) (target : PcWord) :
    LedFrame s (u.complete dur target) := { h with }

/-- DOUT is a function of WIRE and the parameters (rule R36). -/
theorem LedFrame.dout {s t : State} (h : LedFrame s t) (τ : Nat) : t.dout τ = s.dout τ := by
  rw [State.dout, State.dout, h.wire, h.cfg]

/-- A refresh operation completes from a state in which it has sent an event or drawn the sensor values. -/
theorem exec_refresh_led {i : Instr} {s t : State} (hi : i = .dclr ∨ i = .sgen ∨ (∃ n, i = .dtext n) ∨ i = .drend)
    (h : exec i s = .next t) : LedFrame s t := by
  obtain rfl | rfl | ⟨n, rfl⟩ | rfl := hi
  · cases h
    exact (sendDisp_led s (.clear3 s.tNs)).complete _ _
  · cases h
    exact (drawSensors_led s).complete _ _
  · cases h
    exact (sendDisp_led s (.text s.tNs n.toNat (s.lineValue n))).complete _ _
  · cases h
    exact (sendDisp_led s (.render s.tNs)).complete _ _

/-- Settles O35: sending an event, drawing the sensor values and completing all leave the LED branch as it is. -/
theorem refreshOperationsTouchNeitherBufferNorWire : Obligations.RefreshOperationsTouchNeitherBufferNorWire := by
  intro i s t hi h
  have hled := exec_refresh_led hi h
  exact ⟨hled.pb, hled.last, hled.wire, hled.status, hled.eng, hled.dout⟩

/-! ## What the refresh operations send and draw (rules R170 to R173) -/

/-- Settles O31: the effect of DCLR and of DREND is to send their event. -/
theorem dclrAndDrendSendTheirEvent : Obligations.DclrAndDrendSendTheirEvent := fun _ =>
  ⟨completesWith_of_effect (i := .dclr) rfl, completesWith_of_effect (i := .drend) rfl⟩

/-- Settles O32: the effect of SGEN writes its three draws, each in its range, and takes them from the queue. -/
theorem sgenDrawsTheSensorValues : Obligations.SgenDrawsTheSensorValues := fun s =>
  ⟨s.drawSensors.temp10.value, s.drawSensors.ph10.value, s.drawSensors.level.value, s.env.sensors.tail,
    drawInto_register_range _ rfl (by decide) (by decide), drawInto_register_range _ rfl (by decide) (by decide),
    drawInto_register_range _ rfl (by decide) (by decide), completesWith_of_effect (i := .sgen) rfl⟩

/-- A register reads as a number of its width, and as its value once an operation has written it (rule R41, U4). -/
theorem readReg_toNat {w : Nat} (r : Reg (BitVec w)) (free : BitVec w) :
    (readReg r free).toNat < 2 ^ w ∧ (r.written = true → (readReg r free).toNat = r.value.toNat) :=
  ⟨(readReg r free).isLt, fun h => congrArg BitVec.toNat (readReg_of_written free h)⟩

/-- Settles O34: the effect of DTEXT sends the value that its line's register reads as. -/
theorem dtextSendsTheLineValue : Obligations.DtextSendsTheLineValue := by
  refine fun s n _ => ⟨s.lineValue n, ?_, ?_, ?_, completesWith_of_effect (i := .dtext n) rfl⟩
  · rintro rfl
    exact readReg_toNat s.temp10 _
  · rintro rfl
    exact readReg_toNat s.ph10 _
  · rintro rfl
    exact readReg_toNat s.level _

end Sys2Proof.Machine
end

section
/-! SUPPORT. The control program (spec/45_control_program.md): the shipped ROM and its listing, and how far apart its refresh
checks are. -/

namespace Sys2Proof.Machine

/-! ## The shipped ROM (rules R185, R186) -/

theorem mkWord_toNat (op : Byte) (x : BitVec 32) : (mkWord op x).toNat = op.toNat <<< 32 ||| x.toNat :=
  BitVec.toNat_append op x

/-- Word 0, the boot, holds LED_PIN in the operand of INIT. -/
theorem encode_init (pin : Byte) : encode (.init pin) = 0x0100000000 ||| pin.setWidth 40 := by
  have hoperand : (Instr.init pin).operandBits = pin.setWidth 32 := (BitVec.setWidth_eq_append (by decide)).symm
  apply BitVec.eq_of_toNat_eq
  rw [encode, mkWord_toNat, hoperand, BitVec.toNat_or, BitVec.toNat_setWidth_of_le (by decide),
    BitVec.toNat_setWidth_of_le (by decide)]
  simp [Instr.opcode]

/-- The words of the loop, which holds no pin, are evaluated one by one. -/
theorem map_encode_loopListing : loopListing.map encode = romTwinkle ++ romDrop ++ romBlink ++ romRefresh := by
  decide

theorem map_encode_shippedListing (pin : Byte) : (shippedListing pin).map encode = shippedRom pin := by
  rw [shippedListing, shippedRom, List.map_cons, encode_init, map_encode_loopListing]

theorem wellFormed_of_mem_loopListing : ∀ i ∈ loopListing, i.WellFormed = true := by
  decide

theorem wellFormed_of_mem_shippedListing (pin : Byte) : ∀ i ∈ shippedListing pin, i.WellFormed = true :=
  List.forall_mem_cons.2 ⟨rfl, wellFormed_of_mem_loopListing⟩

/-- Words that encode well-formed operations decode to them (rule R104). -/
theorem map_decode_map_encode {is : List Instr} (h : ∀ i ∈ is, i.WellFormed = true) :
    (is.map encode).map decode = is.map .ok := by
  rw [List.map_map]
  exact List.map_congr_left fun i hi => decode_encode (h i hi)

/-- Settles O52: the words are the encodings of well-formed operations, so they decode to them. -/
theorem shippedRomHoldsItsListing : Obligations.ShippedRomHoldsItsListing := by
  refine ⟨fun pin => ⟨rfl, map_encode_shippedListing pin, ?_⟩, rfl⟩
  rw [← map_encode_shippedListing, map_decode_map_encode (wellFormed_of_mem_shippedListing pin)]

/-! ## The refresh (rule R193) -/

/-- Settles O27: nothing has wrapped, so LAST is the millisecond TSTAMP started in, and the check finds 5000 later ones. -/
theorem refreshChecksAreSpaced : Obligations.RefreshChecksAreSpaced := by
  intro s u v target hcfg hlast hle hwrap hne hexec hpc
  rw [← hcfg] at hlast hwrap
  have hms : s.tNs / 1000000 ≤ u.tNs / 1000000 := Nat.div_le_div_right hle
  have hstamp : u.last = s.tNs / 1000000 := by
    rw [hlast, Nat.mod_eq_of_lt (hms.trans_lt hwrap)]
  have hdue : 5000 ≤ u.elapsedMs := (bnd_falls_through_iff hne hexec).1 hpc
  rw [State.elapsedMs_of_le hwrap (hstamp.trans_le hms), hstamp] at hdue
  omega

end Sys2Proof.Machine
end

section
/-! SUPPORT. Exceptions (spec/60_exceptions.md): which words are legal, why a step halts, what a halting step leaves alone, and
that only reset leaves the halted state. -/

namespace Sys2Proof.Machine

/-! ## Legal words (rules R104, R224) -/

/-- The legal words are those that decode. -/
theorem legalWord_iff_decodes {w : OpWord} : LegalWord w ↔ ∃ i, decode w = .ok i := by
  constructor
  · rintro ⟨row, hrow, hacc, hn⟩
    obtain ⟨i, hi, -⟩ := (decodeFollowsOpcodeMap w row.op).2 ⟨row, hrow, rfl, hacc, hn⟩
    exact ⟨i, hi⟩
  · rintro ⟨i, hi⟩
    obtain ⟨row, hrow, hop, hacc, hn⟩ := (decodeFollowsOpcodeMap w i.opcode).1 ⟨i, hi, rfl⟩
    exact ⟨row, hrow, hacc, fun h22 => hn (hop.symm.trans h22)⟩

theorem not_legalWord_iff_rejected {w : OpWord} : ¬ LegalWord w ↔ ∃ r, decode w = .error r := by
  rw [legalWord_iff_decodes]
  cases decode w with
  | ok i => simp
  | error r => simp

/-! ## Why a step halts (rules R220, R230) -/

theorem fetch_eq_none_iff (s : State) : s.fetch = none ↔ s.rom.length ≤ s.pc.toNat := List.getElem?_eq_none_iff

/-- The condition under which the step of a running machine halts with cause `c`: nothing to fetch, an illegal word, or an
operation that halts. -/
def StepHalts (s : State) (c : HaltCause) : Prop :=
  (c = .fetchOutOfRange ∧ s.fetch = none) ∨
  ∃ w, s.fetch = some w ∧ ((c = .illegalOp ∧ ¬ LegalWord w) ∨ ∃ i, decode w = .ok i ∧ Halts i s c)

/-- A step into the halted state is a `raise` at PC, of a cause whose condition holds: an operation that completes leaves
the machine running. -/
theorem stepHalts_of_step {s t : State} (hs : s.halted = false) (h : step s = .next t) (ht : t.halted = true) :
    ∃ c, StepHalts s c ∧ t = s.raise c s.pc := by
  obtain ⟨hh, -⟩ | ⟨-, hf, rfl⟩ | ⟨-, w, hf, ⟨hd, rfl⟩ | ⟨i, hd, hi⟩⟩ := step_cases h
  · exact absurd hh (by simp [hs])
  · exact ⟨_, .inl ⟨rfl, hf⟩, rfl⟩
  · exact ⟨_, .inr ⟨w, hf, .inl ⟨rfl, not_legalWord_iff_rejected.2 hd⟩⟩, rfl⟩
  · obtain ⟨c, hc, rfl⟩ | ⟨u, hu, rfl⟩ := exec_cases hi
    · exact ⟨c, .inr ⟨w, hf, .inr ⟨i, hd, hc⟩⟩, rfl⟩
    · rw [State.complete_halted, (effect_frame hu).halted, hs] at ht
      exact absurd ht Bool.false_ne_true

/-! ## The statements of the family -/

/-- Settles O9: the legal words are those that decode, and a word decodes to the operation whose word it is. -/
theorem wordsRunIfLegalAndHaltIfNot : Obligations.WordsRunIfLegalAndHaltIfNot := by
  refine fun s w hrun hword => ⟨fun hillegal => ?_, fun hlegal => ?_⟩
  · obtain ⟨r, hd⟩ := not_legalWord_iff_rejected.1 hillegal
    exact step_of_illegal hrun hword hd
  · obtain ⟨i, hd⟩ := legalWord_iff_decodes.1 hlegal
    obtain ⟨hwf, henc⟩ := isWordOf_of_decode hd
    exact ⟨i, hwf, henc, step_of_decoded hrun hword hd⟩

/-- Settles O11: a halt is a `raise` at PC, and from T_NS on every frame of a state that meets the invariant is over. -/
theorem haltingStepsArePrecise : Obligations.HaltingStepsArePrecise := by
  intro s t hrun hstep hhalt
  refine ⟨?_, fun hinv τ hτ => (doutIsLowOutsideFrames t τ).2 (step_inv hinv hstep) hτ⟩
  obtain ⟨c, -, rfl⟩ := stepHalts_of_step hrun hstep hhalt
  exact s.raise_eq c

/-- Settles O12: the code of each cause, beside the condition of `StepHalts`. -/
theorem everyHaltHasItsListedCause : Obligations.EveryHaltHasItsListedCause := by
  intro s t hrun hstep hhalt
  obtain ⟨c, ⟨rfl, hf⟩ | ⟨w, hword, hc⟩, rfl⟩ := stepHalts_of_step hrun hstep hhalt
  · exact .inl ⟨rfl, (fetch_eq_none_iff s).1 hf⟩
  · refine .inr ⟨w, hword, ?_⟩
    obtain ⟨rfl, hillegal⟩ | ⟨i, hd, hi⟩ := hc
    · exact .inr (.inr (.inl ⟨rfl, hillegal⟩))
    · obtain ⟨rfl, rfl⟩ | ⟨rfl, he, h0, h1, pin, rfl⟩ | ⟨rfl, he, rfl⟩ | ⟨rfl, he, pin, rfl⟩ := hi
      · exact .inl ⟨rfl, hd⟩
      · exact .inr (.inl ⟨rfl, he, h0, h1, pin, hd⟩)
      · exact .inr (.inr (.inr (.inl ⟨rfl, he, hd⟩)))
      · exact .inr (.inr (.inr (.inr ⟨rfl, he, pin, hd⟩)))

/-- Settles O37: HALTED is sticky over steps, and the reset state runs from word 0. -/
theorem onlyResetLeavesTheHaltedState : Obligations.OnlyResetLeavesTheHaltedState := by
  refine ⟨fun s t hhalted hstep => ?_, fun s env => ⟨rfl, BitVec.getLsbD_zero, rfl⟩⟩
  obtain ⟨hsticky, -⟩ := statusBitsAreSticky s t hstep
  exact hsticky hhalted

/-- Settles O8: past the ROM there is no word to fetch. -/
theorem fetchPastRomHalts : Obligations.FetchPastRomHalts := fun s hrun hend =>
  step_of_fetch_none hrun ((fetch_eq_none_iff s).2 hend)

end Sys2Proof.Machine
end

section
/-! SUPPORT. Reset and hazards (spec/70_reset_and_hazards.md): what a WRITE sends of a pixel that the SET before it wrote. -/

namespace Sys2Proof.Machine

/-! ## SET, then WRITE (rule R255) -/

/-- SET is a writer of neither WIRE nor ENG. -/
theorem exec_set_wire_eng {s t : State} {i r g b : Byte} (h : exec (.set i r g b) s = .next t) :
    t.wire = s.wire ∧ t.eng = s.eng := by
  have writers := exec_changedByWriters h
  refine ⟨by_contra fun hne => ?_, by_contra fun hne => ?_⟩
  · cases writers.wire hne
  · obtain ⟨_, hinit⟩ := writers.eng hne
    cases hinit

theorem exec_set_pixel {s t : State} {i r g b : Byte} (hi : i.toNat < 25) (h : exec (.set i r g b) s = .next t) :
    t.pixel ⟨i.toNat, hi⟩ = ⟨r, g, b⟩ := by
  rw [State.pixel, exec_set_pb (by omega) h, pb_write_get, if_pos rfl, readReg_written]

theorem exec_write_wire {t u : State} (he : t.eng ≠ .unclaimed) (h : exec .write t = .next u) :
    u.wire = t.wire ++ [⟨t.tNs + t.overhead, t.frame⟩] := by
  have heffect : Effect .write t (t.emitFrame (t.tNs + t.overhead)) := ⟨he, rfl⟩
  cases (exec_of_effect heffect).symm.trans h
  rfl

/-- Settles O51: SET leaves WIRE and ENG, so the WRITE sends the frame of the buffer SET left, in which the pixel reads as
set. -/
theorem writeAfterSetCarriesThePixel : Obligations.WriteAfterSetCarriesThePixel := by
  intro s t u idx r g b hidx he hset hwrite
  obtain ⟨hwire, heng⟩ := exec_set_wire_eng hset
  have hsent := exec_write_wire (heng ▸ he) hwrite
  have hpixel := exec_set_pixel hidx hset
  refine ⟨hwire, ⟨t.tNs + t.overhead, t.frame⟩, hwire ▸ hsent, ?_, ?_, ?_⟩
  · exact (t.frame_green ⟨idx.toNat, hidx⟩).trans (congrArg Pixel.g hpixel)
  · exact (t.frame_red ⟨idx.toNat, hidx⟩).trans (congrArg Pixel.r hpixel)
  · exact (t.frame_blue ⟨idx.toNat, hidx⟩).trans (congrArg Pixel.b hpixel)

end Sys2Proof.Machine
end
